-- ==== Sys2Proof/Word.lean ====
section
/-! DEFINITION. The widths of the block (00_scope.md section 4) and the raw form of what its ports carry. -/

namespace Sys2Proof

/-- byte = 8 bits. -/
abbrev Byte := BitVec 8

/-- nibble = 4 bits. -/
abbrev Nibble := BitVec 4

/-- The width of `CRC`, of `arg` and of `res`. -/
abbrev Half := BitVec 16

/-- A command word (30_encoding.md R45) or a response word (R46). -/
abbrev Word20 := BitVec 20

/-- What stands on a port for one step, before decoding: the three decode spaces of opcode_table.json.
They are separate ports (60_exceptions.md R123), so no bits tell them apart. -/
inductive PortWord where
  /-- A 20-bit word at the host command port, format CMD20 (30_encoding.md R45). -/
  | command (w : Word20)
  /-- A wire byte at the line-in port, format LINE8 (30_encoding.md R52). -/
  | lineByte (c : Byte)
  /-- The strobe of the transport's read timer, format STROBE, no data (30_encoding.md R60). -/
  | lineStrobe
  deriving DecidableEq, Repr

end Sys2Proof
end

