-- ==== Sys2Proof/Syntax.lean ====
section
/-! DEFINITION. The operations of the block: one constructor per row of opcode_table.json. -/

namespace Sys2Proof

/-- The thirteen host commands (30_encoding.md R48) and the two line events (R52, R60).
Operands are those of the shapes of R47; an index is a number, everything else is bits. -/
inductive Instr where
  /-- `CRC.LOAD v` (IMM16). -/
  | crcLoad (v : Half)
  /-- `CRC.UPD b` (IMM8). -/
  | crcUpd (b : Byte)
  /-- `CRC.RD` (NONE). -/
  | crcRd
  /-- `HEX.ENC b` (IMM8). -/
  | hexEnc (b : Byte)
  /-- `HEX.DEC c_hi, c_lo` (CH2). -/
  | hexDec (cHi cLo : Byte)
  /-- `TX.CLR` (NONE). -/
  | txClr
  /-- `TX.PUT b` (IMM8). -/
  | txPut (b : Byte)
  /-- `TX.SEND` (NONE). -/
  | txSend
  /-- `TX.STAT` (NONE). -/
  | txStat
  /-- `RX.STAT` (NONE). -/
  | rxStat
  /-- `RX.LEN` (NONE). -/
  | rxLen
  /-- `RX.RD idx` (IDX16): a byte index into `RXBUF`. -/
  | rxRd (idx : Nat)
  /-- `RX.CLR` (NONE). -/
  | rxClr
  /-- `LINE.RX c` (LINE8). -/
  | lineRx (c : Byte)
  /-- `LINE.TMO` (STROBE). -/
  | lineTmo
  deriving DecidableEq, Repr

end Sys2Proof
end

