-- ==== Sys2Proof/WellFormed.lean ====
section
/-! DEFINITION. Which instructions have an encoding: the operand ranges that the types do not already give. -/

namespace Sys2Proof

/-- `idx` is a 16-bit operand (30_encoding.md R47, shape IDX16); every other operand has its width by type,
and every value of that width is legal (R47, R52). -/
def Instr.wellFormed : Instr → Bool
  | .crcLoad _ => true
  | .crcUpd _ => true
  | .crcRd => true
  | .hexEnc _ => true
  | .hexDec _ _ => true
  | .txClr => true
  | .txPut _ => true
  | .txSend => true
  | .txStat => true
  | .rxStat => true
  | .rxLen => true
  | .rxRd idx => decide (idx < 65536)
  | .rxClr => true
  | .lineRx _ => true
  | .lineTmo => true

end Sys2Proof
end

