-- ==== Sys2Proof/Decode.lean ====
section
/-! DEFINITION. The decoder (30_encoding.md R45 to R52, R60), total on everything a port can carry, and the encoder. -/

namespace Sys2Proof

/-- Why a command word is no instruction; either way the response is `(IllegalOp, 0)` (30_encoding.md R49, R50). -/
inductive DecodeError where
  /-- `op` is 0xD, 0xE or 0xF (R49). -/
  | reservedOp (op : BitVec 4)
  /-- A 1 in a reserved bit of the shape of `op` (R50). -/
  | reservedBits (op : BitVec 4) (arg : Half)
  deriving DecidableEq, Repr

/-! ## The fields of a command word -/

/-- `op = cmd[19:16]` (R45). -/
def opOf (w : Word20) : BitVec 4 := w.extractLsb' 16 4

/-- `arg = cmd[15:0]` (R45). -/
def argOf (w : Word20) : Half := w.extractLsb' 0 16

/-- Bits 15:8 of a 16-bit value: reserved in IMM8, `c_hi` in CH2 (R47). -/
def hiByte (v : Half) : Byte := v.extractLsb' 8 8

/-- Bits 7:0 of a 16-bit value: `b` in IMM8, `c_lo` in CH2 (R47). -/
def loByte (v : Half) : Byte := v.extractLsb' 0 8

/-! ## The operand shapes of R47 -/

/-- Shape NONE: `arg[15:0]` must be 0. -/
def decodeNone (w : Word20) (i : Instr) : Except DecodeError Instr :=
  if argOf w = 0 then .ok i else .error (.reservedBits (opOf w) (argOf w))

/-- Shape IMM8: `b = arg[7:0]`; `arg[15:8]` must be 0. -/
def decodeImm8 (w : Word20) (f : Byte → Instr) : Except DecodeError Instr :=
  if hiByte (argOf w) = 0 then .ok (f (loByte (argOf w))) else .error (.reservedBits (opOf w) (argOf w))

/-- The operation code map of R48, with the reserved codes of R49. -/
def decodeCommand (w : Word20) : Except DecodeError Instr :=
  match (opOf w).toNat with
  | 0x0 => .ok (.crcLoad (argOf w))
  | 0x1 => decodeImm8 w .crcUpd
  | 0x2 => decodeNone w .crcRd
  | 0x3 => decodeImm8 w .hexEnc
  | 0x4 => .ok (.hexDec (hiByte (argOf w)) (loByte (argOf w)))
  | 0x5 => decodeNone w .txClr
  | 0x6 => decodeImm8 w .txPut
  | 0x7 => decodeNone w .txSend
  | 0x8 => decodeNone w .txStat
  | 0x9 => decodeNone w .rxStat
  | 0xA => decodeNone w .rxLen
  | 0xB => .ok (.rxRd (argOf w).toNat)
  | 0xC => decodeNone w .rxClr
  | _ => .error (.reservedOp (opOf w))

/-- What a port word stands for: the three separate decode spaces. All 256 line bytes are legal (R52). -/
def decode : PortWord → Except DecodeError Instr
  | .command w => decodeCommand w
  | .lineByte c => .ok (.lineRx c)
  | .lineStrobe => .ok .lineTmo

/-! ## The encoder -/

/-- `(op << 16) or arg` (30_encoding.md R58). -/
def commandWord (op : BitVec 4) (arg : Half) : Word20 := op ++ arg

/-- The `arg` of shape IMM8 (R47). -/
def imm8Arg (b : Byte) : Half := b.setWidth 16

/-- The words of an instruction, from the encodings of R47, R48, R52 and R60. -/
def encode : Instr → PortWord
  | .crcLoad v => .command (commandWord 0x0 v)
  | .crcUpd b => .command (commandWord 0x1 (imm8Arg b))
  | .crcRd => .command (commandWord 0x2 0)
  | .hexEnc b => .command (commandWord 0x3 (imm8Arg b))
  | .hexDec cHi cLo => .command (commandWord 0x4 (cHi ++ cLo))
  | .txClr => .command (commandWord 0x5 0)
  | .txPut b => .command (commandWord 0x6 (imm8Arg b))
  | .txSend => .command (commandWord 0x7 0)
  | .txStat => .command (commandWord 0x8 0)
  | .rxStat => .command (commandWord 0x9 0)
  | .rxLen => .command (commandWord 0xA 0)
  | .rxRd idx => .command (commandWord 0xB (BitVec.ofNat 16 idx))
  | .rxClr => .command (commandWord 0xC 0)
  | .lineRx c => .lineByte c
  | .lineTmo => .lineStrobe

/-! ## The opcode table -/

/-- R48's table: mnemonic, match and mask of each command row; `w` selects a row when `(w and mask) = match`. -/
def commandRows : List (String × Word20 × Word20) :=
  [ ("CRC.LOAD", 0x00000, 0xF0000)
  , ("CRC.UPD", 0x10000, 0xFFF00)
  , ("CRC.RD", 0x20000, 0xFFFFF)
  , ("HEX.ENC", 0x30000, 0xFFF00)
  , ("HEX.DEC", 0x40000, 0xF0000)
  , ("TX.CLR", 0x50000, 0xFFFFF)
  , ("TX.PUT", 0x60000, 0xFFF00)
  , ("TX.SEND", 0x70000, 0xFFFFF)
  , ("TX.STAT", 0x80000, 0xFFFFF)
  , ("RX.STAT", 0x90000, 0xFFFFF)
  , ("RX.LEN", 0xA0000, 0xFFFFF)
  , ("RX.RD", 0xB0000, 0xF0000)
  , ("RX.CLR", 0xC0000, 0xFFFFF) ]

/-- `w` selects the row (R48). -/
def rowSelects (w : Word20) (row : String × Word20 × Word20) : Bool := w &&& row.2.2 == row.2.1

/-- The mnemonic of an instruction's row in opcode_table.json. -/
def Instr.mnemonic : Instr → String
  | .crcLoad _ => "CRC.LOAD"
  | .crcUpd _ => "CRC.UPD"
  | .crcRd => "CRC.RD"
  | .hexEnc _ => "HEX.ENC"
  | .hexDec _ _ => "HEX.DEC"
  | .txClr => "TX.CLR"
  | .txPut _ => "TX.PUT"
  | .txSend => "TX.SEND"
  | .txStat => "TX.STAT"
  | .rxStat => "RX.STAT"
  | .rxLen => "RX.LEN"
  | .rxRd _ => "RX.RD"
  | .rxClr => "RX.CLR"
  | .lineRx _ => "LINE.RX"
  | .lineTmo => "LINE.TMO"

/-- The port word of a table row's bits: a row of no bits is the strobe, of up to 8 bits a line byte, and a longer one
a 20-bit command word (opcode_table.json "width"; log entry 11). `none` where the bits do not fit the port. -/
def portWordOfTable (nbits w : Nat) : Option PortWord :=
  if nbits = 0 then
    if w = 0 then some .lineStrobe else none
  else if nbits ≤ 8 then
    if w < 256 then some (.lineByte (BitVec.ofNat 8 w)) else none
  else
    if w < 1048576 then some (.command (BitVec.ofNat 20 w)) else none

/-- The instruction the decoder reads from a table row's bits. -/
def decodeTableWord (nbits w : Nat) : Option Instr :=
  match portWordOfTable nbits w with
  | none => none
  | some p =>
    match decode p with
    | .ok i => some i
    | .error _ => none

end Sys2Proof
end

