-- ==== Sys2Proof/Config.lean ====
section
/-! DEFINITION. The parameters of 00_scope.md section 4, fixed when the block is built (10_state.md R27). -/

namespace Sys2Proof

/-- OPEN (00_scope.md R6): how far `RX_BUF_BYTES` lies above its least value 3; any of 0 to 65532.
No body, so no proof can see a value (log entry 6). -/
opaque Config.rxBufExtra : Fin 65533

/-- `RX_BUF_BYTES` (00_scope.md R6): some natural number from 3 to 65535. -/
def Config.rxBufBytes : Nat := Config.rxBufExtra.val + 3

/-- OPEN (00_scope.md R7): `HEXNIB_OTHER`, the nibble of a character that is none of the sixteen proper ones.
A function of the character alone; no body, so no proof can see a value (log entry 7). -/
opaque Config.hexnibOther : Byte → Nibble

/-- `MAX_PARAMS` (00_scope.md R4; 90_conflicts.md C1; log entry 8). -/
def Config.maxParams : Nat := 194

/-- `TX_BUF_BYTES = 1 + MAX_PARAMS` (00_scope.md R5). -/
def Config.txBufBytes : Nat := 1 + Config.maxParams

/-- `STX` (00_scope.md R8). -/
def Config.stx : Byte := 0x02

/-- `ETX` (00_scope.md R8). -/
def Config.etx : Byte := 0x03

/-- `CRC_INIT` (00_scope.md R8). -/
def Config.crcInit : Half := 0xFFFF

/-- `MIN_BODY`, the least number of decoded bytes in a frame (00_scope.md R8). -/
def Config.minBody : Nat := 3

end Sys2Proof
end

