-- ==== Sys2Proof/Machine/State.lean ====
section
/-! DEFINITION. The state of the block as plain data (10_state.md), the reasons a step can stop, and the state after reset. -/

namespace Sys2Proof.Machine

/-- A body buffer: the (index, byte) pairs written since reset, indices strictly rising. An index that is not listed has
no value: it "must be treated as a fault, not answered with zero" (70_reset_and_hazards.md R132; log entry 9). -/
abbrev Memory := List Host.Cell

/-- The canonical form of a buffer of `cap` bytes: indices strictly rising, each below `cap` (20_memory.md R30). -/
abbrev Memory.wf (cap : Nat) (m : Memory) : Prop :=
  m.Pairwise (fun x y => x.1 < y.1) ∧ ∀ c ∈ m, c.1 < cap

/-- The status codes of 60_exceptions.md R116, in the order of their numbers 0 to 9. -/
inductive Status where
  | ok
  | paramsTooLong
  | shortAnswer
  | crcInvalid
  | timeout
  | truncated
  | overrun
  | notReady
  | txEmpty
  | illegalOp
  deriving DecidableEq, Repr

/-- `RX_STATE` (10_state.md R19): "The value 3 is never taken" (log entry 13). -/
inductive RxState where
  /-- Waiting for STX. -/
  | hunt
  /-- Between STX and ETX. -/
  | body
  /-- A frame or a timeout has ended the reception. -/
  | done
  deriving DecidableEq, Repr

/-- What the environment presents for one step (00_scope.md R2, R3). -/
inductive Input where
  /-- An operation at the command port or the line-in port. -/
  | op (p : PortWord)
  /-- Reset: "one atomic step, ordered with the other steps like any of them" (70_reset_and_hazards.md R130). -/
  | reset
  deriving DecidableEq, Repr

/-- The two address spaces (20_memory.md R30). -/
inductive Space where
  | txBuf
  | rxBuf
  deriving DecidableEq, Repr

/-- The state of the block. The fields up to `rxVerdict` are 10_state.md's; `inputs` and `responses` are the model's own
(log entries 1 and 3). -/
structure State where
  /-- `CRC` (R12). -/
  crc : Half
  /-- `TXBUF` (R13). -/
  txBuf : Memory
  /-- `TX_LEN` (R14). -/
  txLen : BitVec 8
  /-- `TX_OVF` (R15). -/
  txOvf : Bool
  /-- `TXOUT` (R16): the output trace, oldest byte first (log entry 5). -/
  txOut : List Byte
  /-- `RXBUF` (R17). -/
  rxBuf : Memory
  /-- `RX_LEN` (R18). -/
  rxLen : BitVec 16
  /-- `RX_STATE` (R19). -/
  rxState : RxState
  /-- `RX_PHASE` (R20). -/
  rxPhase : Bool
  /-- `RX_NIB` (R21). -/
  rxNib : Nibble
  /-- `RX_OVF` (R22). -/
  rxOvf : Bool
  /-- `RX_VERDICT` (R23). -/
  rxVerdict : Status
  /-- The model's own: what the environment presents, next first (R11 "supplied from outside"; log entry 1). -/
  inputs : List Input
  /-- The model's own: the response word of every command so far, oldest first (70_reset_and_hazards.md R141; log entry 3). -/
  responses : List Word20
  deriving DecidableEq, Repr

/-- Why the machine stops. The block itself never does (60_exceptions.md R115). -/
inductive Fault where
  /-- A read of a buffer byte that nothing has written: TX.SEND below `TX_LEN`, LINE.RX at ETX and RX.RD below `RX_LEN`.
  The spec asks for a fault here (70_reset_and_hazards.md R132). Safe: the model stops, and no state that meets
  10_state.md R24 raises it. -/
  | unwrittenByte (space : Space) (idx : Nat)
  deriving DecidableEq, Repr

/-- Why the model does not run an operation. -/
inductive Refusal where
  /-- An arm of `exec` whose instruction has no meaning yet. Safe: the model stops. No arm raises it. -/
  | notModelled (mnemonic : String)
  deriving DecidableEq, Repr

/-- The machine right after reset (70_reset_and_hazards.md R131). Nothing has been presented and nothing answered. -/
def State.reset : State where
  crc := 0xFFFF
  txBuf := []
  txLen := 0
  txOvf := false
  txOut := []
  rxBuf := []
  rxLen := 0
  rxState := .hunt
  rxPhase := false
  rxNib := 0
  rxOvf := false
  rxVerdict := .ok
  inputs := []
  responses := []

end Sys2Proof.Machine
end

