-- ==== Sys2Proof/Machine/Operands.lean ====
section
/-! DEFINITION. How operands and results are put together (20_memory.md R32 to R34, 30_encoding.md R46, R47): every value is
unsigned and used as it stands. The fields of a command word are taken apart in Decode.lean. -/

namespace Sys2Proof.Machine

/-- The status code numbers (60_exceptions.md R116); 10 to 15 are never produced. -/
def Status.code : Status → BitVec 4
  | .ok => 0
  | .paramsTooLong => 1
  | .shortAnswer => 2
  | .crcInvalid => 3
  | .timeout => 4
  | .truncated => 5
  | .overrun => 6
  | .notReady => 7
  | .txEmpty => 8
  | .illegalOp => 9

/-- The response word RSP20: `status` in bits 19:16, `res` in bits 15:0 (30_encoding.md R46). -/
def responseWord (st : Status) (res : Half) : Word20 := st.code ++ res

/-- `b[7:4]`, the nibble that travels first (20_memory.md R33). -/
def hiNibble (b : Byte) : Nibble := b.extractLsb' 4 4

/-- `b[3:0]`. -/
def loNibble (b : Byte) : Nibble := b.extractLsb' 0 4

/-- `(hi << 4) or lo`, 8 bits (41_hex.md R80, 43_rx_deframer.md R99). -/
def byteOfNibbles (hi lo : Nibble) : Byte := (hi.setWidth 8 <<< 4) ||| lo.setWidth 8

/-- `{hi8, lo8}`, the 16-bit value `hi8 * 256 + lo8` (00_scope.md section 6). -/
def pair (hi lo : Byte) : Half := hi ++ lo

/-- A byte as a 16-bit result, `res[15:8] = 0` (`zext_16`). -/
def zext16 (b : Byte) : Half := b.setWidth 16

end Sys2Proof.Machine
end

