-- ==== Sys2Proof/Machine/Flags.lean ====
section
/-! DEFINITION. The status bits `TX_OVF`, `RX_OVF`, `RX_PHASE` (10_state.md R27): what clears them, and the status reads that
show them. No operation sets a flag as a side effect of arithmetic. -/

namespace Sys2Proof.Machine

/-- `TX_LEN <- 0 ; TX_OVF <- 0` (42_tx_framer.md R86, R88). -/
def clearTx (s : State) : State := { s with txLen := 0, txOvf := false }

/-- `RX_LEN <- 0 ; RX_PHASE <- 0 ; RX_OVF <- 0` (43_rx_deframer.md R96, R97, R102, R106). -/
def clearRx (s : State) : State := { s with rxLen := 0, rxPhase := false, rxOvf := false }

/-- The number of an `RX_STATE` (10_state.md R19). -/
def RxState.code : RxState → BitVec 2
  | .hunt => 0
  | .body => 1
  | .done => 2

/-- A status bit as a field of one bit. -/
def flagBit (f : Bool) : BitVec 1 := BitVec.ofBool f

/-- `{0b0000000, TX_OVF, TX_LEN}` (42_tx_framer.md R89). -/
def txStatWord (s : State) : Half := 0#7 ++ flagBit s.txOvf ++ s.txLen

/-- `{0x00, RX_VERDICT, RX_OVF, RX_PHASE, RX_STATE}` (43_rx_deframer.md R103). -/
def rxStatWord (s : State) : Half :=
  0#8 ++ s.rxVerdict.code ++ flagBit s.rxOvf ++ flagBit s.rxPhase ++ s.rxState.code

end Sys2Proof.Machine
end

