-- ==== Sys2Proof/Machine/Ops.lean ====
section
/-! DEFINITION. The operations every meaning shares: reading and writing a body buffer, answering a command, failing one,
emitting wire bytes, taking the next input, reset. -/

namespace Sys2Proof.Machine

/-! ## The body buffers (20_memory.md R30, R31) -/

/-- `MemRead(space, a, 1)`; `none` where nothing has written index `a`. -/
def Memory.read : Memory → Nat → Option Byte
  | [], _ => none
  | (x, b) :: rest, a => if x = a then some b else Memory.read rest a

/-- `MemWrite(space, a, 1, v)`, in canonical form. -/
def Memory.write : Memory → Nat → Byte → Memory
  | [], a, v => [(a, v)]
  | (x, b) :: rest, a, v =>
    if a < x then (a, v) :: (x, b) :: rest
    else if a = x then (a, v) :: rest
    else (x, b) :: Memory.write rest a v

/-- The bytes at indices 0 to `n - 1` in order, or the first index there that nothing has written. -/
def Memory.readPrefix (m : Memory) : Nat → Except Nat (List Byte)
  | 0 => .ok []
  | n + 1 =>
    match Memory.readPrefix m n with
    | .error i => .error i
    | .ok bs =>
      match m.read n with
      | none => .error n
      | some b => .ok (bs ++ [b])

/-! ## Responses: `return` and `raise` (00_scope.md section 7; 60_exceptions.md R115) -/

/-- The response word joins the trace of responses. -/
def respond (st : Status) (res : Half) (s : State) : State :=
  { s with responses := s.responses ++ [responseWord st res] }

/-- `return (OK, res)`. -/
def complete (res : Half) (s : State) : Host.Outcome State Fault Refusal := .next (respond .ok res s)

/-- `raise st`: this block's whole "trap entry" (60_exceptions.md R115, R121). It means `return (st, 0)`: the command
completes, state writes made before it are kept, nothing is saved and nothing is redirected, so there is no return from it
either (R122). -/
def raise (st : Status) (s : State) : Host.Outcome State Fault Refusal := .next (respond st 0 s)

/-- The answer to a command word that is no instruction: "the response is `(IllegalOp, 0)` and no state changes"
(30_encoding.md R49, R50). -/
def answerIllegal (s : State) : Host.Outcome State Fault Refusal := raise .illegalOp s

/-! ## The line-out stream (10_state.md R16) -/

/-- `emit` of each byte of `ws`, first to last: they join the end of `TXOUT`. -/
def emit (ws : List Byte) (s : State) : State := { s with txOut := s.txOut ++ ws }

/-! ## Inputs and reset -/

/-- The input presented for this step and the state with it taken; `none` when nothing is presented (log entries 1, 2). -/
def takeInput (s : State) : Option (Input × State) :=
  match s.inputs with
  | [] => none
  | i :: rest => some (i, { s with inputs := rest })

/-- The same state with `p` presented before everything else. -/
def presentNext (p : PortWord) (s : State) : State := { s with inputs := .op p :: s.inputs }

/-- The reset step (70_reset_and_hazards.md R130, R131): the block's state takes its reset values. What the environment has
still to present and the responses it already has are not the block's, and stay (log entry 4). -/
def applyReset (s : State) : State :=
  { State.reset with inputs := s.inputs, responses := s.responses }

end Sys2Proof.Machine
end

