-- ==== Sys2Proof/Machine/Crc.lean ====
section
/-! DEFINITION. The CRC engine (40_crc.md): `crc_step`, `crc16`, CRC.LOAD, CRC.UPD, CRC.RD. -/

namespace Sys2Proof.Machine

/-- `crc_step(crc, b)`, line by line as R65 gives it with every width explicit. -/
def crcStep (crc : Half) (b : Byte) : Half :=
  let x0 : Byte := hiByte crc ^^^ b
  let x : Byte := x0 ^^^ (x0 >>> 4)
  let t1 : Half := crc <<< 8
  let t2 : Half := x.setWidth 16 <<< 12
  let t3 : Half := x.setWidth 16 <<< 5
  let t4 : Half := x.setWidth 16
  t1 ^^^ t2 ^^^ t3 ^^^ t4

/-- `crc16(data, init)` (R66). -/
def crc16 : List Byte → Half → Half
  | [], init => init
  | b :: rest, init => crc16 rest (crcStep init b)

/-- CRC.LOAD v (R67). -/
def execCrcLoad (v : Half) (s : State) : Host.Outcome State Fault Refusal :=
  complete 0 { s with crc := v }

/-- CRC.UPD b (R68). -/
def execCrcUpd (b : Byte) (s : State) : Host.Outcome State Fault Refusal :=
  complete 0 { s with crc := crcStep s.crc b }

/-- CRC.RD (R69). -/
def execCrcRd (s : State) : Host.Outcome State Fault Refusal :=
  complete s.crc s

end Sys2Proof.Machine
end

