-- ==== Sys2Proof/Machine/Hex.lean ====
section
/-! DEFINITION. The hex encoder and decoder (41_hex.md): the nibble and sequence functions, HEX.ENC, HEX.DEC. -/

namespace Sys2Proof.Machine

/-- `nib2hex(n)` (R75). -/
def nib2hex (n : Nibble) : Byte :=
  if n ≤ 9 then n.setWidth 8 + 0x30 else n.setWidth 8 + 0x37

/-- `hex2nib(c)` (R76): `HEXNIB_OTHER` for the 240 characters that are not proper. It never fails. -/
def hex2nib (c : Byte) : Nibble :=
  if 0x30 ≤ c ∧ c ≤ 0x39 then (c - 0x30).setWidth 4
  else if 0x41 ≤ c ∧ c ≤ 0x46 then (c - 0x37).setWidth 4
  else Config.hexnibOther c

/-- `bytes_to_hex(s)` (R80): high nibble first (20_memory.md R33). -/
def bytesToHex : List Byte → List Byte
  | [] => []
  | b :: rest => nib2hex (hiNibble b) :: nib2hex (loNibble b) :: bytesToHex rest

/-- `hex_to_bytes(t)` (R80); `none` for an odd number of characters, where it "is not defined". -/
def hexToBytes : List Byte → Option (List Byte)
  | [] => some []
  | [_] => none
  | hi :: lo :: rest =>
    match hexToBytes rest with
    | none => none
    | some bs => some (byteOfNibbles (hex2nib hi) (hex2nib lo) :: bs)

/-- HEX.ENC b (R77): the first character in `res[15:8]`. -/
def execHexEnc (b : Byte) (s : State) : Host.Outcome State Fault Refusal :=
  complete (pair (nib2hex (hiNibble b)) (nib2hex (loNibble b))) s

/-- HEX.DEC c_hi, c_lo (R78). -/
def execHexDec (cHi cLo : Byte) (s : State) : Host.Outcome State Fault Refusal :=
  complete (zext16 (byteOfNibbles (hex2nib cHi) (hex2nib cLo))) s

end Sys2Proof.Machine
end

