-- ==== Sys2Proof/Machine/Rx.lean ====
section
/-! DEFINITION. The RX deframer (43_rx_deframer.md): the verdict, the host commands RX.STAT, RX.LEN, RX.RD, RX.CLR and the
line events LINE.RX, LINE.TMO. -/

namespace Sys2Proof.Machine

/-! ## Host commands -/

/-- RX.STAT (R103). -/
def execRxStat (s : State) : Host.Outcome State Fault Refusal :=
  complete (rxStatWord s) s

/-- `RX_LEN - 2`, opcode plus parameters: how many body bytes RX.LEN counts and RX.RD can read (R104, R105). On naturals;
`RX_LEN >= 3` wherever it is used in a state that 10_state.md R24 allows (log entry 12). -/
def bodyLen (s : State) : Nat := s.rxLen.toNat - 2

/-- RX.LEN (R104). -/
def execRxLen (s : State) : Host.Outcome State Fault Refusal :=
  if s.rxState ≠ .done then raise .notReady s
  else if s.rxVerdict ≠ .ok then raise s.rxVerdict s
  else complete (BitVec.ofNat 16 (bodyLen s)) s

/-- RX.RD idx (R105). -/
def execRxRd (idx : Nat) (s : State) : Host.Outcome State Fault Refusal :=
  if s.rxState ≠ .done then raise .notReady s
  else if s.rxVerdict ≠ .ok then raise s.rxVerdict s
  else if bodyLen s ≤ idx then raise .shortAnswer s
  else
    match s.rxBuf.read idx with
    | some b => complete (zext16 b) s
    | none => .fault (.unwrittenByte .rxBuf idx)

/-- RX.CLR (R106). `RX_NIB` and `RXBUF` are not touched. -/
def execRxClr (s : State) : Host.Outcome State Fault Refusal :=
  complete 0 { clearRx s with rxState := .hunt, rxVerdict := .ok }

/-! ## Line events -/

/-- The CRC test of `rx_verdict` over the `n` stored bytes (R101): the body is all but the last two, of which the low byte
came first. The error is the first index needed that nothing has written. -/
def crcVerdict (m : Memory) (n : Nat) : Except Nat Status :=
  match m.readPrefix (n - 2) with
  | .error i => .error i
  | .ok body =>
    match m.read (n - 2) with
    | none => .error (n - 2)
    | some lo =>
      match m.read (n - 1) with
      | none => .error (n - 1)
      | some hi => .ok (if crc16 body Config.crcInit = pair hi lo then .ok else .crcInvalid)

/-- `rx_verdict()` (R101): the first line that applies. -/
def verdictAtEtx (s : State) : Except Nat Status :=
  if s.rxOvf then .ok .overrun
  else if s.rxPhase = true ∨ s.rxLen.toNat < Config.minBody then .ok .truncated
  else crcVerdict s.rxBuf s.rxLen.toNat

/-- ETX in BODY (R98): the verdict is latched and the buffer freezes. -/
def endFrame (s : State) : Host.Outcome State Fault Refusal :=
  match verdictAtEtx s with
  | .ok v => .next { s with rxVerdict := v, rxState := .done }
  | .error i => .fault (.unwrittenByte .rxBuf i)

/-- A decoded byte arrives (R99): stored, or dropped with `RX_OVF` set when `RXBUF` is full. -/
def storeDecoded (byte : Byte) (s : State) : State :=
  if s.rxLen.toNat < Config.rxBufBytes then
    { s with rxBuf := s.rxBuf.write s.rxLen.toNat byte, rxLen := s.rxLen + 1 }
  else
    { s with rxOvf := true }

/-- A hex character in BODY (R99): the first of a pair is kept in `RX_NIB`, the second completes the byte. -/
def takeChar (c : Byte) (s : State) : State :=
  if s.rxPhase then
    storeDecoded (byteOfNibbles s.rxNib (hex2nib c)) { s with rxPhase := false }
  else
    { s with rxNib := hex2nib c, rxPhase := true }

/-- LINE.RX c: the state table of R95 (R96 in HUNT, R97 to R99 in BODY, R100 in DONE). -/
def execLineRx (c : Byte) (s : State) : Host.Outcome State Fault Refusal :=
  match s.rxState with
  | .hunt => if c = Config.stx then .next { clearRx s with rxState := .body } else .next s
  | .body =>
    if c = Config.stx then .next (clearRx s)
    else if c = Config.etx then endFrame s
    else .next (takeChar c s)
  | .done => .next s

/-- LINE.TMO (R102). -/
def execLineTmo (s : State) : Host.Outcome State Fault Refusal :=
  match s.rxState with
  | .hunt => .next { clearRx s with rxVerdict := .timeout, rxState := .done }
  | .body => .next { clearRx s with rxVerdict := .timeout, rxState := .done }
  | .done => .next s

end Sys2Proof.Machine
end

