-- ==== Sys2Proof/Machine/Tx.lean ====
section
/-! DEFINITION. The TX framer (42_tx_framer.md): `frame_bytes`, TX.CLR, TX.PUT, TX.SEND, TX.STAT. -/

namespace Sys2Proof.Machine

/-- `frame_bytes(B)` (R85; 30_encoding.md R53): the CRC goes low byte first (20_memory.md R32). -/
def frameBytes (body : List Byte) : List Byte :=
  let crc := crc16 body Config.crcInit
  [Config.stx] ++ bytesToHex body ++ bytesToHex [loByte crc, hiByte crc] ++ [Config.etx]

/-- TX.CLR (R86). -/
def execTxClr (s : State) : Host.Outcome State Fault Refusal :=
  complete 0 (clearTx s)

/-- TX.PUT b (R87). -/
def execTxPut (b : Byte) (s : State) : Host.Outcome State Fault Refusal :=
  if s.txLen.toNat < Config.txBufBytes then
    complete 0 { s with txBuf := s.txBuf.write s.txLen.toNat b, txLen := s.txLen + 1 }
  else
    raise .paramsTooLong { s with txOvf := true }

/-- TX.SEND (R88). -/
def execTxSend (s : State) : Host.Outcome State Fault Refusal :=
  if s.txOvf then
    raise .paramsTooLong (clearTx s)
  else if s.txLen = 0 then
    raise .txEmpty s
  else
    match s.txBuf.readPrefix s.txLen.toNat with
    | .ok body => complete (BitVec.ofNat 16 (2 * s.txLen.toNat + 6)) (clearTx (emit (frameBytes body) s))
    | .error i => .fault (.unwrittenByte .txBuf i)

/-- TX.STAT (R89). -/
def execTxStat (s : State) : Host.Outcome State Fault Refusal :=
  complete (txStatWord s) s

end Sys2Proof.Machine
end

