-- ==== Sys2Proof/Machine/Dispatch.lean ====
section
/-! DEFINITION. One arm per row of opcode_table.json. -/

namespace Sys2Proof.Machine

/-- The effect of one operation (30_encoding.md R48; 43_rx_deframer.md R95). -/
def exec (i : Instr) (s : State) : Host.Outcome State Fault Refusal :=
  match i with
  | .crcLoad v => Sys2Proof.Machine.execCrcLoad v s
  | .crcUpd b => Sys2Proof.Machine.execCrcUpd b s
  | .crcRd => Sys2Proof.Machine.execCrcRd s
  | .hexEnc b => Sys2Proof.Machine.execHexEnc b s
  | .hexDec cHi cLo => Sys2Proof.Machine.execHexDec cHi cLo s
  | .txClr => Sys2Proof.Machine.execTxClr s
  | .txPut b => Sys2Proof.Machine.execTxPut b s
  | .txSend => Sys2Proof.Machine.execTxSend s
  | .txStat => Sys2Proof.Machine.execTxStat s
  | .rxStat => Sys2Proof.Machine.execRxStat s
  | .rxLen => Sys2Proof.Machine.execRxLen s
  | .rxRd idx => Sys2Proof.Machine.execRxRd idx s
  | .rxClr => Sys2Proof.Machine.execRxClr s
  | .lineRx c => Sys2Proof.Machine.execLineRx c s
  | .lineTmo => Sys2Proof.Machine.execLineTmo s

end Sys2Proof.Machine
end

