-- ==== Sys2Proof/Machine/Step.lean ====
section
/-! DEFINITION. One step of the block: the effect of one presented input (00_scope.md R3). -/

namespace Sys2Proof.Machine

/-- One atomic step. A word that is no instruction is answered, not refused (30_encoding.md R49, R50). When nothing is
presented nothing happens (log entry 2): "The block never halts" (70_reset_and_hazards.md R141). -/
def step (s : State) : Host.Outcome State Fault Refusal :=
  match takeInput s with
  | none => .next s
  | some (.reset, s') => .next (applyReset s')
  | some (.op p, s') =>
    match decode p with
    | .ok i => exec i s'
    | .error _ => answerIllegal s'

/-- `s` with a table row's bits presented before everything else, on the row's own port (log entries 1, 11). -/
def State.withFetchWord (s : State) (nbits w : Nat) : State :=
  match portWordOfTable nbits w with
  | none => s
  | some p => presentNext p s

end Sys2Proof.Machine
end

