-- ==== Sys2Proof/Safety.lean ====
section
/-! DEFINITION. What a safe state and a safe run are: the invariants of 10_state.md R24, and which contents of the buffers
and of `RX_NIB` no operation can show. -/

namespace Sys2Proof.Machine

/-- Index `a` of a buffer has been written since reset. -/
abbrev Memory.written (m : Memory) (a : Nat) : Prop := (m.read a).isSome = true

/-- The equality of R24 item 8: the stored CRC, low byte first, is the CRC of what stands before it. -/
def StoredCrcAgrees (s : State) : Prop :=
  ∃ body lo hi, s.rxBuf.readPrefix (s.rxLen.toNat - 2) = .ok body ∧
    s.rxBuf.read (s.rxLen.toNat - 2) = some lo ∧ s.rxBuf.read (s.rxLen.toNat - 1) = some hi ∧
    crc16 body 0xFFFF = pair hi lo

/-- The invariants of 10_state.md R24, by their numbers there (item 4 holds by the type of `rxState`), with two of the
model's own: the verdicts that R23 lists, and the canonical form of the two buffers (log entry 9). -/
structure Invariants (s : State) : Prop where
  /-- Item 1. -/
  txLen_le : s.txLen.toNat ≤ Config.txBufBytes
  /-- Item 2. -/
  txOvf_full : s.txOvf = true → s.txLen.toNat = Config.txBufBytes
  /-- Item 3. -/
  rxLen_le : s.rxLen.toNat ≤ Config.rxBufBytes
  /-- Item 5. -/
  hunt_clear : s.rxState = .hunt → s.rxLen = 0 ∧ s.rxPhase = false ∧ s.rxOvf = false ∧ s.rxVerdict = .ok
  /-- Item 6. -/
  body_verdict : s.rxState = .body → s.rxVerdict = .ok
  /-- Item 7. -/
  rxOvf_full : s.rxOvf = true → s.rxLen.toNat = Config.rxBufBytes
  /-- Item 8. -/
  done_ok : s.rxState = .done → s.rxVerdict = .ok →
    3 ≤ s.rxLen.toNat ∧ s.rxPhase = false ∧ s.rxOvf = false ∧ StoredCrcAgrees s
  /-- Item 9. -/
  done_timeout : s.rxState = .done → s.rxVerdict = .timeout → s.rxLen = 0 ∧ s.rxPhase = false ∧ s.rxOvf = false
  /-- Item 10, `TXBUF`. -/
  tx_written : ∀ a < s.txLen.toNat, s.txBuf.written a
  /-- Item 10, `RXBUF`. -/
  rx_written : ∀ a < s.rxLen.toNat, s.rxBuf.written a
  /-- R23: `RX_VERDICT` holds one of `OK`, `CrcInvalid`, `Timeout`, `Truncated`, `Overrun`. -/
  verdict_legal : s.rxVerdict ∈ [Status.ok, .crcInvalid, .timeout, .truncated, .overrun]
  /-- The model's own: `TXBUF` is in canonical form. -/
  txBuf_wf : s.txBuf.wf Config.txBufBytes
  /-- The model's own: `RXBUF` is in canonical form. -/
  rxBuf_wf : s.rxBuf.wf Config.rxBufBytes

/-- A step that neither faults nor is refused and keeps the invariants. -/
def SafeStep (s : State) : Prop := ∃ t, step s = .next t ∧ Invariants t

/-- `s` and `t` differ at most in what no operation reads: buffer bytes at or above the fill level (10_state.md R13, R17)
and `RX_NIB` outside BODY with `RX_PHASE = 1` (R21). -/
structure SameObservable (s t : State) : Prop where
  crc : s.crc = t.crc
  txLen : s.txLen = t.txLen
  txOvf : s.txOvf = t.txOvf
  txOut : s.txOut = t.txOut
  rxLen : s.rxLen = t.rxLen
  rxState : s.rxState = t.rxState
  rxPhase : s.rxPhase = t.rxPhase
  rxOvf : s.rxOvf = t.rxOvf
  rxVerdict : s.rxVerdict = t.rxVerdict
  inputs : s.inputs = t.inputs
  responses : s.responses = t.responses
  txBuf : ∀ a < s.txLen.toNat, s.txBuf.read a = t.txBuf.read a
  rxBuf : ∀ a < s.rxLen.toNat, s.rxBuf.read a = t.rxBuf.read a
  rxNib : s.rxState = .body → s.rxPhase = true → s.rxNib = t.rxNib

/-! ## The words the claims are made of -/

/-- The same run as `core.run`: `n` steps, stopping at the first fault or refusal. -/
def runSteps (n : Nat) (s : State) : Host.Outcome State Fault Refusal := Sys2Proof.core.run n s

/-- The effects of the listed operations, one after the other, stopping at the first fault or refusal. -/
def execAll : List Instr → State → Host.Outcome State Fault Refusal
  | [], s => .next s
  | i :: rest, s =>
    match exec i s with
    | .next t => execAll rest t
    | .fault r => .fault r
    | .refused r => .refused r

/-- `f` applied to the next state, if there is one. -/
def mapNext (f : State → State) : Host.Outcome State Fault Refusal → Host.Outcome State Fault Refusal
  | .next t => .next (f t)
  | .fault r => .fault r
  | .refused r => .refused r

/-- `p` is what the environment presents next, and `rest` comes after it. -/
abbrev State.presents (s : State) (p : PortWord) (rest : List Input) : Prop := s.inputs = .op p :: rest

/-- What is presented when the operations `is` are presented in order, each as its own word. -/
def presented (is : List Instr) : List Input := is.map fun i => .op (encode i)

/-- What is presented when the wire bytes `ws` arrive in order (`LINE.STR`, 30_encoding.md R59). -/
def lineString (ws : List Byte) : List Input := ws.map fun c => .op (.lineByte c)

/-- Shape NONE at the command port (30_encoding.md R47, R50): the word of `op` runs `i` if `arg[15:0]` is 0; otherwise the
response is `(IllegalOp, 0)` and no state changes. -/
def WordRunsNone (op : BitVec 4) (i : Instr) : Prop :=
  ∀ (arg : Half) (s : State) (rest : List Input), s.presents (.command (op ++ arg)) rest →
    step s = if arg = 0 then exec i { s with inputs := rest }
      else .next (respond .illegalOp 0 { s with inputs := rest })

/-- Shape IMM8 at the command port (R47, R50): the word of `op` runs `f arg[7:0]` if `arg[15:8]` is 0; otherwise the
response is `(IllegalOp, 0)` and no state changes. -/
def WordRunsImm8 (op : BitVec 4) (f : Byte → Instr) : Prop :=
  ∀ (arg : Half) (s : State) (rest : List Input), s.presents (.command (op ++ arg)) rest →
    step s = if arg.extractLsb' 8 8 = 0 then exec (f (arg.extractLsb' 0 8)) { s with inputs := rest }
      else .next (respond .illegalOp 0 { s with inputs := rest })

/-- Shapes IMM16, CH2 and IDX16 at the command port (R47): every `arg` is legal. -/
def WordRunsAny (op : BitVec 4) (f : Half → Instr) : Prop :=
  ∀ (arg : Half) (s : State) (rest : List Input), s.presents (.command (op ++ arg)) rest →
    step s = exec (f arg) { s with inputs := rest }

/-- One of the sixteen proper hex characters: class HEXDIGIT or HEXLETTER (30_encoding.md R52). -/
def isHexChar (c : Byte) : Prop := (0x30 ≤ c.toNat ∧ c.toNat ≤ 0x39) ∨ (0x41 ≤ c.toNat ∧ c.toNat ≤ 0x46)

/-- `n` rounds of the bit-serial CRC with generator 0x1021, most significant bit first (40_crc.md R71). -/
def bitSerialRounds : Nat → Half → Half
  | 0, c => c
  | n + 1, c => bitSerialRounds n (if c.getLsbD 15 then (c <<< 1) ^^^ 0x1021 else c <<< 1)

/-- The statuses that a command word with this `op` can be answered with (60_exceptions.md R117). -/
def statusesOf (op : BitVec 4) : List Status :=
  match op.toNat with
  | 0x0 | 0x4 => [.ok]
  | 0x1 | 0x2 | 0x3 | 0x5 | 0x8 | 0x9 | 0xC => [.ok, .illegalOp]
  | 0x6 => [.ok, .illegalOp, .paramsTooLong]
  | 0x7 => [.ok, .illegalOp, .paramsTooLong, .txEmpty]
  | 0xA => [.ok, .illegalOp, .notReady, .crcInvalid, .timeout, .truncated, .overrun]
  | 0xB => [.ok, .notReady, .crcInvalid, .timeout, .truncated, .overrun, .shortAnswer]
  | _ => [.illegalOp]

/-- The state table of the deframer (43_rx_deframer.md R95): the state each operation leads to. -/
def rxNextState (st : RxState) : Instr → RxState
  | .lineRx c =>
    match st with
    | .hunt => if c = 0x02 then .body else .hunt
    | .body => if c = 0x03 then .done else .body
    | .done => .done
  | .lineTmo => .done
  | .rxClr => .hunt
  | .crcLoad _ => st
  | .crcUpd _ => st
  | .crcRd => st
  | .hexEnc _ => st
  | .hexDec _ _ => st
  | .txClr => st
  | .txPut _ => st
  | .txSend => st
  | .txStat => st
  | .rxStat => st
  | .rxLen => st
  | .rxRd _ => st

/-- The operations that use the CRC register (10_state.md R12). -/
def usesCrc : Instr → Bool
  | .crcLoad _ | .crcUpd _ | .crcRd => true
  | .hexEnc _ | .hexDec _ _ | .txClr | .txPut _ | .txSend | .txStat | .rxStat | .rxLen | .rxRd _ | .rxClr
  | .lineRx _ | .lineTmo => false

/-- The operations of the TX framer (42_tx_framer.md). -/
def ofTx : Instr → Bool
  | .txClr | .txPut _ | .txSend | .txStat => true
  | .crcLoad _ | .crcUpd _ | .crcRd | .hexEnc _ | .hexDec _ _ | .rxStat | .rxLen | .rxRd _ | .rxClr
  | .lineRx _ | .lineTmo => false

/-- The operations that write the RX deframer's registers: LINE.RX, LINE.TMO and RX.CLR (10_state.md section 7). -/
def writesRx : Instr → Bool
  | .rxClr | .lineRx _ | .lineTmo => true
  | .crcLoad _ | .crcUpd _ | .crcRd | .hexEnc _ | .hexDec _ _ | .txClr | .txPut _ | .txSend | .txStat | .rxStat
  | .rxLen | .rxRd _ => false

/-- The operations that read or write the RX deframer's state: `writesRx` and the reads RX.STAT, RX.LEN, RX.RD (10_state.md
section 7). -/
def usesRx : Instr → Bool
  | .rxStat | .rxLen | .rxRd _ | .rxClr | .lineRx _ | .lineTmo => true
  | .crcLoad _ | .crcUpd _ | .crcRd | .hexEnc _ | .hexDec _ _ | .txClr | .txPut _ | .txSend | .txStat => false

/-- `s` with the TX framer state of `u` (10_state.md section 3). -/
def State.withTxOf (s u : State) : State :=
  { s with txBuf := u.txBuf, txLen := u.txLen, txOvf := u.txOvf, txOut := u.txOut }

/-- `s` with the RX deframer state of `u` (10_state.md section 4). -/
def State.withRxOf (s u : State) : State :=
  { s with
    rxBuf := u.rxBuf, rxLen := u.rxLen, rxState := u.rxState, rxPhase := u.rxPhase, rxNib := u.rxNib, rxOvf := u.rxOvf
    rxVerdict := u.rxVerdict }

/-- `s` and `t` have the same TX framer state. -/
def SameTx (s t : State) : Prop :=
  s.txBuf = t.txBuf ∧ s.txLen = t.txLen ∧ s.txOvf = t.txOvf ∧ s.txOut = t.txOut

/-- `s` and `t` have the same RX deframer state. -/
def SameRx (s t : State) : Prop :=
  s.rxBuf = t.rxBuf ∧ s.rxLen = t.rxLen ∧ s.rxState = t.rxState ∧ s.rxPhase = t.rxPhase ∧ s.rxNib = t.rxNib ∧
    s.rxOvf = t.rxOvf ∧ s.rxVerdict = t.rxVerdict

end Sys2Proof.Machine
end

