-- ==== Sys2Proof/Certificates/Slice0/Obligations.lean ====
section
/-! DEFINITION. The statements about the model, in the order of OBLIGATIONS.json. Each docstring names the rule or section of
spec/ it formalises. "The response (S, r)" is the response word joining the model's own trace `responses` (log entry 3);
"presented" inputs are the model's own list `inputs` (log entry 1). A statement that gives the whole next state says with it
that every other field of the state is unchanged. -/

open Sys2Proof Sys2Proof.Machine

/-! ## Encoding -/

/-- A few of the words 95_test_vectors.md (V-CMD, V-HEX) writes out decode to what they stand for, words it calls illegal do
not decode, and the response words V-CMD lists, one for each status of 60_exceptions.md R116, are those of their status and
result. -/
def Obligations.SpecWordsDecodeAsListed : Prop :=
  decode (.command 0x0FFFF) = .ok (.crcLoad 0xFFFF) ∧
  decode (.command 0x10005) = .ok (.crcUpd 0x05) ∧
  decode (.command 0x44135) = .ok (.hexDec 0x41 0x35) ∧
  decode (.command 0x600FF) = .ok (.txPut 0xFF) ∧
  decode (.command 0x70000) = .ok .txSend ∧
  decode (.command 0xBFFFF) = .ok (.rxRd 65535) ∧
  decode (.lineByte 0x02) = .ok (.lineRx 0x02) ∧
  decode .lineStrobe = .ok .lineTmo ∧
  decode (.command 0x10100) = .error (.reservedBits 0x1 0x0100) ∧
  decode (.command 0xE1234) = .error (.reservedOp 0xE) ∧
  responseWord .ok 0x3885 = 0x03885 ∧
  responseWord .paramsTooLong 0 = 0x10000 ∧
  responseWord .shortAnswer 0 = 0x20000 ∧
  responseWord .crcInvalid 0 = 0x30000 ∧
  responseWord .timeout 0 = 0x40000 ∧
  responseWord .truncated 0 = 0x50000 ∧
  responseWord .overrun 0 = 0x60000 ∧
  responseWord .notReady 0 = 0x70000 ∧
  responseWord .txEmpty 0 = 0x80000 ∧
  responseWord .illegalOp 0 = 0x90000

/-- 30_encoding.md sections 1 to 3: no bit of an encoding is dropped. -/
def Obligations.DecodeOfEncodeIsTheInstruction : Prop :=
  ∀ i : Instr, i.wellFormed = true → decode (encode i) = .ok i

/-- 30_encoding.md sections 1 to 3: no two port words stand for one instruction ("ignoring bits would give 2^16 spellings to
one operation", 92_eei_decisions.md D5), and what the decoder gives has an encoding. -/
def Obligations.EncodeOfDecodedWordIsTheWord : Prop :=
  ∀ (p : PortWord) (i : Instr), decode p = .ok i → encode i = p ∧ i.wellFormed = true

/-- 30_encoding.md R50: a word is legal exactly when it matches one row of R48 (then the row of its own instruction); there are
197383 legal words; an illegal word is answered `(IllegalOp, 0)` and no state changes. -/
def Obligations.WordIsLegalExactlyWhenOneRowMatches : Prop :=
  (∀ w : Word20, (∃ i, decode (.command w) = .ok i) ↔ ∃ row, commandRows.filter (rowSelects w) = [row]) ∧
  (∀ (w : Word20) (i : Instr), decode (.command w) = .ok i →
    (commandRows.filter (rowSelects w)).map (fun row => row.1) = [i.mnemonic]) ∧
  (List.range 1048576).countP (fun n => (decode (.command (BitVec.ofNat 20 n))).isOk) = 3 * 65536 + 3 * 256 + 7 ∧
  (∀ (w : Word20) (s : State) (rest : List Input), s.presents (.command w) rest →
    (¬ ∃ i, decode (.command w) = .ok i) → step s = .next (respond .illegalOp 0 { s with inputs := rest }))

/-- 30_encoding.md R49: `op` 0xD, 0xE and 0xF are reserved. -/
def Obligations.ReservedOpcodesAnswerIllegalOp : Prop :=
  ∀ (op : BitVec 4) (arg : Half) (s : State) (rest : List Input), 0xD ≤ op.toNat →
    s.presents (.command (op ++ arg)) rest → step s = .next (respond .illegalOp 0 { s with inputs := rest })

/-- The step of the model (log entry 1): when what is presented next decodes to `i`, the step is the effect of `i` on the state
with that input taken. The block has no program counter to move (10_state.md R11). -/
def Obligations.StepRunsTheDecodedInstruction : Prop :=
  ∀ (p : PortWord) (i : Instr) (s : State) (rest : List Input), s.presents p rest → decode p = .ok i →
    step s = exec i { s with inputs := rest }

/-- The model's choice (log entry 2): when nothing is presented nothing happens. -/
def Obligations.NothingPresentedNothingHappens : Prop :=
  ∀ s : State, s.inputs = [] → step s = .next s

/-- 30_encoding.md R46: every command word produces one 20-bit response word, `status` in bits 19:16 and `res` in bits 15:0;
`res` is 0 whenever `status` is not 0 and for the commands that return nothing (CRC.LOAD, CRC.UPD, TX.CLR, TX.PUT, RX.CLR);
line events produce none. The premise `Invariants` (10_state.md section 6) rules out only states no run reaches. -/
def Obligations.EveryCommandHasOneResponseWord : Prop :=
  (∀ (st : Status) (res : Half), (responseWord st res).extractLsb' 16 4 = st.code ∧
    (responseWord st res).extractLsb' 0 16 = res ∧ (st.code = 0 ↔ st = .ok)) ∧
  (∀ (w : Word20) (s : State) (rest : List Input), Invariants s → s.presents (.command w) rest →
    ∃ t st res, step s = .next t ∧ t.responses = s.responses ++ [responseWord st res] ∧ (st ≠ .ok → res = 0) ∧
      ((w.extractLsb' 16 4).toNat ∈ [0x0, 0x1, 0x5, 0x6, 0xC] → res = 0)) ∧
  (∀ (c : Byte) (s : State) (rest : List Input), Invariants s → s.presents (.lineByte c) rest →
    ∃ t, step s = .next t ∧ t.responses = s.responses) ∧
  (∀ (s : State) (rest : List Input), Invariants s → s.presents .lineStrobe rest →
    ∃ t, step s = .next t ∧ t.responses = s.responses)

/-- 60_exceptions.md, the list of statuses each operation can return (the spec derives it): in a state that meets 10_state.md
R24's invariants every command word is answered, with a status of its operation's list; a line event is not answered, and
changes the verdict only as listed. -/
def Obligations.StatusesOfEachOperation : Prop :=
  (∀ (w : Word20) (s : State) (rest : List Input), Invariants s → s.presents (.command w) rest →
    ∃ t st res, step s = .next t ∧ t.responses = s.responses ++ [responseWord st res] ∧
      st ∈ statusesOf (w.extractLsb' 16 4)) ∧
  (∀ (c : Byte) (s t : State) (rest : List Input), Invariants s → s.presents (.lineByte c) rest → step s = .next t →
    t.rxVerdict ≠ s.rxVerdict → c = 0x03 ∧ t.rxVerdict ∈ [Status.crcInvalid, .truncated, .overrun]) ∧
  (∀ (s t : State) (rest : List Input), Invariants s → s.presents .lineStrobe rest → step s = .next t →
    t.rxVerdict ≠ s.rxVerdict → t.rxVerdict = .timeout)

/-! ## CRC engine -/

/-- 40_crc.md R67: CRC.LOAD v, op 0x0, every `arg` legal. -/
def Obligations.CrcLoadWritesCrc : Prop :=
  (∀ (v : Half) (s : State), exec (.crcLoad v) s = .next (respond .ok 0 { s with crc := v })) ∧
  WordRunsAny 0x0 .crcLoad

/-- 40_crc.md R68: CRC.UPD b, op 0x1, `arg[15:8]` reserved. -/
def Obligations.CrcUpdStepsCrc : Prop :=
  (∀ (b : Byte) (s : State), exec (.crcUpd b) s = .next (respond .ok 0 { s with crc := crcStep s.crc b })) ∧
  WordRunsImm8 0x1 .crcUpd

/-- 40_crc.md R69: CRC.RD, op 0x2, `arg` reserved; the response is `(OK, CRC)` and `CRC` is not changed. -/
def Obligations.CrcRdReturnsCrc : Prop :=
  (∀ s : State, exec .crcRd s = .next (respond .ok s.crc s)) ∧
  WordRunsNone 0x2 .crcRd

/-- 40_crc.md R65 on unbounded naturals, cut to 16 bits once at the end (R70: "upper bits beyond 16 are discarded"). -/
def Obligations.CrcStepIsTheSourceLoopBody : Prop :=
  ∀ (crc : Half) (b : Byte), (crcStep crc b).toNat =
    (let x0 := (crc.toNat >>> 8) ^^^ b.toNat
     let x := x0 ^^^ (x0 >>> 4)
     ((crc.toNat <<< 8) ^^^ (x <<< 12) ^^^ (x <<< 5) ^^^ x) % 65536)

/-- 40_crc.md section 4 (the spec derives it from the step's definition by evaluation): `crc_step` is the bit-serial CRC step
with generator 0x1021, most significant bit first. -/
def Obligations.CrcStepIsTheBitSerialCrc : Prop :=
  ∀ (crc : Half) (b : Byte), crcStep crc b = bitSerialRounds 8 (crc ^^^ (b.setWidth 16 <<< 8))

/-- 30_encoding.md section 5 and 40_crc.md section 4: the pseudo-operation `CRC16 [b0, .., bk]`, presented word by word, answers
`crc16([b0, .., bk], 0xFFFF)` last, for any number of bytes, and changes nothing but `CRC`. -/
def Obligations.CrcPseudoOperationReturnsTheChecksum : Prop :=
  ∀ (bs : List Byte) (s : State) (rest : List Input),
    s.inputs = presented (.crcLoad 0xFFFF :: bs.map .crcUpd ++ [.crcRd]) ++ rest →
    runSteps (bs.length + 2) s = .next { s with
      crc := crc16 bs 0xFFFF
      inputs := rest
      responses := s.responses ++ List.replicate (bs.length + 1) (responseWord .ok 0) ++
        [responseWord .ok (crc16 bs 0xFFFF)] }

/-- 43_rx_deframer.md section 4 (the source's "must catch all single-byte corruption in practice", quoted there): two sequences
that differ in exactly one byte have different checksums, whatever the initial value. -/
def Obligations.OneChangedByteChangesTheChecksum : Prop :=
  ∀ (before after : List Byte) (x y : Byte) (init : Half), x ≠ y →
    crc16 (before ++ [x] ++ after) init ≠ crc16 (before ++ [y] ++ after) init

/-! ## Hex encoder and decoder -/

/-- 41_hex.md R75 and R76: the nibble functions; every character but the sixteen proper ones decodes to `HEXNIB_OTHER` of it,
whatever that is. -/
def Obligations.NibbleFunctionsFollowTheirTables : Prop :=
  (∀ n : Nibble, (nib2hex n).toNat = if n.toNat ≤ 9 then n.toNat + 0x30 else n.toNat + 0x37) ∧
  (∀ c : Byte, 0x30 ≤ c.toNat → c.toNat ≤ 0x39 → (hex2nib c).toNat = c.toNat - 0x30) ∧
  (∀ c : Byte, 0x41 ≤ c.toNat → c.toNat ≤ 0x46 → (hex2nib c).toNat = c.toNat - 0x37) ∧
  (∀ c : Byte, ¬ isHexChar c → hex2nib c = Config.hexnibOther c)

/-- 41_hex.md R77: HEX.ENC b, op 0x3, `arg[15:8]` reserved; the character of the high nibble in `res[15:8]`. -/
def Obligations.HexEncReturnsTwoCharacters : Prop :=
  (∀ (b : Byte) (s : State), exec (.hexEnc b) s =
    .next (respond .ok (nib2hex (b.extractLsb' 4 4) ++ nib2hex (b.extractLsb' 0 4)) s)) ∧
  WordRunsImm8 0x3 .hexEnc

/-- 41_hex.md R78: HEX.DEC c_hi, c_lo, op 0x4, every `arg` legal; a character that is not proper is not an error. -/
def Obligations.HexDecReturnsTheByte : Prop :=
  (∀ (cHi cLo : Byte) (s : State), exec (.hexDec cHi cLo) s =
    .next (respond .ok (0#8 ++ (hex2nib cHi ++ hex2nib cLo)) s)) ∧
  WordRunsAny 0x4 (fun arg => .hexDec (arg.extractLsb' 8 8) (arg.extractLsb' 0 8))

/-- 41_hex.md R79: the round trip on sequences, on nibbles and through the two commands, whatever `HEXNIB_OTHER` is; the
converse exactly on sequences of proper characters. -/
def Obligations.HexRoundTrip : Prop :=
  (∀ bs : List Byte, hexToBytes (bytesToHex bs) = some bs) ∧
  (∀ n : Nibble, hex2nib (nib2hex n) = n) ∧
  (∀ (b : Byte) (s : State), ∃ r : Half,
    exec (.hexEnc b) s = .next (respond .ok r s) ∧
    exec (.hexDec (r.extractLsb' 8 8) (r.extractLsb' 0 8)) s = .next (respond .ok (b.setWidth 16) s)) ∧
  (∀ t bs : List Byte, hexToBytes t = some bs → (bytesToHex bs = t ↔ ∀ c ∈ t, isHexChar c))

/-! ## TX framer -/

/-- 42_tx_framer.md R86: TX.CLR, op 0x5; `TXBUF` and `TXOUT` are not touched. -/
def Obligations.TxClrEmptiesTheBuffer : Prop :=
  (∀ s : State, exec .txClr s = .next (respond .ok 0 { s with txLen := 0, txOvf := false })) ∧
  WordRunsNone 0x5 .txClr

/-- 42_tx_framer.md R87: TX.PUT b, op 0x6. Below 195 bytes the byte is stored at `TX_LEN` and counted; at 195 or more nothing is
stored, `TX_OVF` is set and the answer is `ParamsTooLong`. -/
def Obligations.TxPutAppendsOrRefuses : Prop :=
  (∀ (b : Byte) (s : State), s.txLen.toNat < 195 → exec (.txPut b) s =
    .next (respond .ok 0 { s with txBuf := s.txBuf.write s.txLen.toNat b, txLen := s.txLen + 1 })) ∧
  (∀ (b : Byte) (s : State), 195 ≤ s.txLen.toNat → exec (.txPut b) s =
    .next (respond .paramsTooLong 0 { s with txOvf := true })) ∧
  WordRunsImm8 0x6 .txPut

/-- 42_tx_framer.md R88: TX.SEND, op 0x7. `TX_OVF` first, then an empty buffer; otherwise the whole frame of the stored bytes
joins `TXOUT` in this one step, the result is its length and the buffer is empty. -/
def Obligations.TxSendEmitsTheFrame : Prop :=
  (∀ s : State, s.txOvf = true → exec .txSend s =
    .next (respond .paramsTooLong 0 { s with txLen := 0, txOvf := false })) ∧
  (∀ s : State, s.txOvf = false → s.txLen = 0 → exec .txSend s = .next (respond .txEmpty 0 s)) ∧
  (∀ (s : State) (body : List Byte), s.txOvf = false → body ≠ [] → s.txBuf.readPrefix s.txLen.toNat = .ok body →
    exec .txSend s = .next (respond .ok (BitVec.ofNat 16 (2 * s.txLen.toNat + 6))
      { s with txOut := s.txOut ++ frameBytes body, txLen := 0, txOvf := false })) ∧
  WordRunsNone 0x7 .txSend

/-- 42_tx_framer.md R89: TX.STAT, op 0x8; `res[7:0] = TX_LEN`, `res[8] = TX_OVF`, `res[15:9] = 0`; no state is changed. -/
def Obligations.TxStatReturnsOvfAndLen : Prop :=
  (∀ s : State, ∃ res : Half, exec .txStat s = .next (respond .ok res s) ∧
    res.extractLsb' 0 8 = s.txLen ∧ res.getLsbD 8 = s.txOvf ∧ res.extractLsb' 9 7 = 0) ∧
  WordRunsNone 0x8 .txStat

/-- 30_encoding.md R53: the wire frame of a body of `n >= 1` bytes, position by position. -/
def Obligations.FrameLayoutByPosition : Prop :=
  ∀ body : List Byte, body ≠ [] →
    (frameBytes body).length = 2 * body.length + 6 ∧
    (frameBytes body)[0]? = some 0x02 ∧
    (∀ i (h : i < body.length),
      (frameBytes body)[1 + 2 * i]? = some (nib2hex (body[i].extractLsb' 4 4)) ∧
      (frameBytes body)[2 + 2 * i]? = some (nib2hex (body[i].extractLsb' 0 4))) ∧
    (frameBytes body)[2 * body.length + 1]? = some (nib2hex ((crc16 body 0xFFFF).extractLsb' 4 4)) ∧
    (frameBytes body)[2 * body.length + 2]? = some (nib2hex ((crc16 body 0xFFFF).extractLsb' 0 4)) ∧
    (frameBytes body)[2 * body.length + 3]? = some (nib2hex ((crc16 body 0xFFFF).extractLsb' 12 4)) ∧
    (frameBytes body)[2 * body.length + 4]? = some (nib2hex ((crc16 body 0xFFFF).extractLsb' 8 4)) ∧
    (frameBytes body)[2 * body.length + 5]? = some 0x03

/-- 42_tx_framer.md section 3 (the spec derives it): every frame begins with 0x02, ends with 0x03, has an even number, at least
6, of proper hex characters between them, and they decode to the body and its CRC, low byte first. -/
def Obligations.EveryFrameIsWellFormed : Prop :=
  ∀ body : List Byte, body ≠ [] → ∃ interior : List Byte,
    frameBytes body = [0x02] ++ interior ++ [0x03] ∧ 6 ≤ interior.length ∧ interior.length % 2 = 0 ∧
    (∀ c ∈ interior, isHexChar c ∧ c ≠ 0x02 ∧ c ≠ 0x03) ∧
    hexToBytes interior =
      some (body ++ [(crc16 body 0xFFFF).extractLsb' 0 8, (crc16 body 0xFFFF).extractLsb' 8 8])

/-- 42_tx_framer.md section 3, 20_memory.md section 4, 10_state.md section 3: a step leaves `TXOUT` as it is, or is reset and
empties it, or is a TX.SEND answered OK that appends one complete frame at its end. -/
def Obligations.TxOutGrowsOnlyByWholeFrames : Prop :=
  ∀ s t : State, step s = .next t →
    t.txOut = s.txOut ∨
    (∃ rest, s.inputs = .reset :: rest ∧ t.txOut = []) ∨
    (∃ rest body, s.presents (.command 0x70000) rest ∧ body ≠ [] ∧ s.txBuf.readPrefix s.txLen.toNat = .ok body ∧
      t.txOut = s.txOut ++ frameBytes body ∧
      t.responses = s.responses ++ [responseWord .ok (BitVec.ofNat 16 (frameBytes body).length)])

/-- 30_encoding.md section 5, 42_tx_framer.md section 2: the pseudo-operation `TX.FRAME op, [p0, .., pk]` (the source's
`encode_request`), presented word by word from any state, appends exactly `frame_bytes(op || params)` to `TXOUT`, answers OK to
every word and the frame's length last, leaves an empty buffer, and touches neither `CRC` nor the deframer. -/
def Obligations.TxFramePseudoOperationSendsTheFrame : Prop :=
  ∀ (op : Byte) (params : List Byte) (s : State) (rest : List Input), params.length ≤ 194 →
    s.inputs = presented (.txClr :: .txPut op :: params.map .txPut ++ [.txSend]) ++ rest →
    ∃ t, runSteps (params.length + 3) s = .next t ∧
      t.txOut = s.txOut ++ frameBytes (op :: params) ∧ t.txLen = 0 ∧ t.txOvf = false ∧
      t.responses = s.responses ++ List.replicate (params.length + 2) (responseWord .ok 0) ++
        [responseWord .ok (BitVec.ofNat 16 (2 * params.length + 8))] ∧
      t.inputs = rest ∧ t.crc = s.crc ∧ SameRx s t

/-! ## RX deframer -/

/-- 43_rx_deframer.md R96: LINE.RX c in HUNT. -/
def Obligations.LineRxInHuntWaitsForStx : Prop :=
  (∀ s : State, s.rxState = .hunt → exec (.lineRx 0x02) s =
    .next { s with rxState := .body, rxLen := 0, rxPhase := false, rxOvf := false }) ∧
  (∀ (c : Byte) (s : State), s.rxState = .hunt → c ≠ 0x02 → exec (.lineRx c) s = .next s)

/-- 43_rx_deframer.md R97: LINE.RX 0x02 in BODY restarts the frame; `RXBUF` bytes are not erased. -/
def Obligations.LineRxStxInBodyRestartsTheFrame : Prop :=
  ∀ s : State, s.rxState = .body → exec (.lineRx 0x02) s =
    .next { s with rxLen := 0, rxPhase := false, rxOvf := false }

/-- 43_rx_deframer.md R98 with the verdict of R101: LINE.RX 0x03 in BODY. `Overrun`, then `Truncated`, then the CRC of all but
the last two stored bytes against those two, low byte first; only `RX_VERDICT` and `RX_STATE` change. -/
def Obligations.LineRxEtxInBodyLatchesTheVerdict : Prop :=
  (∀ s : State, s.rxState = .body → s.rxOvf = true → exec (.lineRx 0x03) s =
    .next { s with rxVerdict := .overrun, rxState := .done }) ∧
  (∀ s : State, s.rxState = .body → s.rxOvf = false → (s.rxPhase = true ∨ s.rxLen.toNat < 3) →
    exec (.lineRx 0x03) s = .next { s with rxVerdict := .truncated, rxState := .done }) ∧
  (∀ (s : State) (body : List Byte) (lo hi : Byte), s.rxState = .body → s.rxOvf = false → s.rxPhase = false →
    body ≠ [] → s.rxBuf.readPrefix s.rxLen.toNat = .ok (body ++ [lo, hi]) →
    exec (.lineRx 0x03) s = .next { s with
      rxVerdict := if crc16 body 0xFFFF = hi ++ lo then .ok else .crcInvalid
      rxState := .done })

/-- 43_rx_deframer.md R99: LINE.RX c in BODY, `c` neither STX nor ETX, whatever `HEXNIB_OTHER` and `RX_BUF_BYTES` are. -/
def Obligations.LineRxCharacterFormsBytes : Prop :=
  (∀ (c : Byte) (s : State), s.rxState = .body → c ≠ 0x02 → c ≠ 0x03 → s.rxPhase = false →
    exec (.lineRx c) s = .next { s with rxNib := hex2nib c, rxPhase := true }) ∧
  (∀ (c : Byte) (s : State), s.rxState = .body → c ≠ 0x02 → c ≠ 0x03 → s.rxPhase = true →
    s.rxLen.toNat < Config.rxBufBytes →
    exec (.lineRx c) s = .next { s with
      rxPhase := false
      rxBuf := s.rxBuf.write s.rxLen.toNat (s.rxNib ++ hex2nib c)
      rxLen := s.rxLen + 1 }) ∧
  (∀ (c : Byte) (s : State), s.rxState = .body → c ≠ 0x02 → c ≠ 0x03 → s.rxPhase = true →
    Config.rxBufBytes ≤ s.rxLen.toNat →
    exec (.lineRx c) s = .next { s with rxPhase := false, rxOvf := true })

/-- 43_rx_deframer.md R100: LINE.RX c in DONE is discarded, whatever it is; no state changes. -/
def Obligations.LineRxInDoneIsDiscarded : Prop :=
  ∀ (c : Byte) (s : State), s.rxState = .done → exec (.lineRx c) s = .next s

/-- 43_rx_deframer.md R102: LINE.TMO. -/
def Obligations.LineTmoDiscardsAPartialFrame : Prop :=
  (∀ s : State, s.rxState = .hunt ∨ s.rxState = .body → exec .lineTmo s =
    .next { s with rxLen := 0, rxPhase := false, rxOvf := false, rxVerdict := .timeout, rxState := .done }) ∧
  (∀ s : State, s.rxState = .done → exec .lineTmo s = .next s)

/-- 43_rx_deframer.md R103: RX.STAT, op 0x9; the five fields of the result; no state is changed. -/
def Obligations.RxStatReturnsTheStatusFields : Prop :=
  (∀ s : State, ∃ res : Half, exec .rxStat s = .next (respond .ok res s) ∧
    (res.extractLsb' 0 2).toNat = (match s.rxState with | .hunt => 0 | .body => 1 | .done => 2) ∧
    res.getLsbD 2 = s.rxPhase ∧ res.getLsbD 3 = s.rxOvf ∧ res.extractLsb' 4 4 = s.rxVerdict.code ∧
    res.extractLsb' 8 8 = 0) ∧
  WordRunsNone 0x9 .rxStat

/-- 43_rx_deframer.md R104: RX.LEN, op 0xA; `NotReady`, then the latched verdict, then `RX_LEN - 2` (for an `RX_LEN` of 2 or more,
which every state that 10_state.md R24 allows has there); no state is changed. -/
def Obligations.RxLenCountsTheBody : Prop :=
  (∀ s : State, s.rxState ≠ .done → exec .rxLen s = .next (respond .notReady 0 s)) ∧
  (∀ s : State, s.rxState = .done → s.rxVerdict ≠ .ok → exec .rxLen s = .next (respond s.rxVerdict 0 s)) ∧
  (∀ s : State, s.rxState = .done → s.rxVerdict = .ok → 2 ≤ s.rxLen.toNat →
    exec .rxLen s = .next (respond .ok (s.rxLen - 2) s)) ∧
  WordRunsNone 0xA .rxLen

/-- 43_rx_deframer.md R105: RX.RD idx, op 0xB, every `arg` legal; `NotReady`, then the latched verdict, then `ShortAnswer` at or
beyond the end of the parameters, then the byte; no state is changed. -/
def Obligations.RxRdReturnsOneBodyByte : Prop :=
  (∀ (idx : Nat) (s : State), s.rxState ≠ .done → exec (.rxRd idx) s = .next (respond .notReady 0 s)) ∧
  (∀ (idx : Nat) (s : State), s.rxState = .done → s.rxVerdict ≠ .ok →
    exec (.rxRd idx) s = .next (respond s.rxVerdict 0 s)) ∧
  (∀ (idx : Nat) (s : State), s.rxState = .done → s.rxVerdict = .ok → s.rxLen.toNat ≤ idx + 2 →
    exec (.rxRd idx) s = .next (respond .shortAnswer 0 s)) ∧
  (∀ (idx : Nat) (b : Byte) (s : State), s.rxState = .done → s.rxVerdict = .ok → idx + 2 < s.rxLen.toNat →
    s.rxBuf.read idx = some b → exec (.rxRd idx) s = .next (respond .ok (b.setWidth 16) s)) ∧
  WordRunsAny 0xB (fun arg => .rxRd arg.toNat)

/-- 43_rx_deframer.md R106: RX.CLR, op 0xC; `RX_NIB` and `RXBUF` are not touched. -/
def Obligations.RxClrReleasesTheReceiver : Prop :=
  (∀ s : State, exec .rxClr s = .next (respond .ok 0
    { s with rxState := .hunt, rxLen := 0, rxPhase := false, rxOvf := false, rxVerdict := .ok })) ∧
  WordRunsNone 0xC .rxClr

/-- 43_rx_deframer.md section 1, the state table, for all fifteen operations. -/
def Obligations.RxStateFollowsTheTable : Prop :=
  ∀ (i : Instr) (s t : State), exec i s = .next t → t.rxState = rxNextState s.rxState i

/-- 43_rx_deframer.md section 4, frame symmetry (the spec derives it): a deframer in HUNT that receives `frame_bytes(B)` byte by
byte ends in DONE with verdict OK, and RX.RD gives back `B`, whatever `HEXNIB_OTHER` is. -/
def Obligations.SentFrameIsReceivedUnchanged : Prop :=
  ∀ (body : List Byte) (s : State) (rest : List Input), body ≠ [] → body.length ≤ 195 →
    body.length + 2 ≤ Config.rxBufBytes → s.rxState = .hunt → s.inputs = lineString (frameBytes body) ++ rest →
    ∃ t, runSteps (frameBytes body).length s = .next t ∧ t.rxState = .done ∧ t.rxVerdict = .ok ∧
      t.rxLen.toNat = body.length + 2 ∧ t.inputs = rest ∧ t.responses = s.responses ∧
      ∀ i (h : i < body.length), exec (.rxRd i) t = .next (respond .ok (body[i].setWidth 16) t)

/-- 43_rx_deframer.md section 4, tamper detection (the spec derives it): the same reception with one interior character replaced
by another proper hex character ends in DONE with verdict CrcInvalid. -/
def Obligations.ChangedCharacterIsCrcInvalid : Prop :=
  ∀ (body : List Byte) (k : Nat) (c : Byte) (s : State) (rest : List Input), body ≠ [] → body.length ≤ 195 →
    body.length + 2 ≤ Config.rxBufBytes → s.rxState = .hunt →
    1 ≤ k → k + 1 < (frameBytes body).length → isHexChar c → (frameBytes body)[k]? ≠ some c →
    s.inputs = lineString ((frameBytes body).set k c) ++ rest →
    ∃ t, runSteps (frameBytes body).length s = .next t ∧ t.rxState = .done ∧ t.rxVerdict = .crcInvalid ∧
      t.inputs = rest

/-! ## The whole machine -/

/-- 70_reset_and_hazards.md R130 and R131: reset, in any state, is one step with no response, gives every register its reset
value and empties `TXOUT`; what stands in the buffers and in `RX_NIB` afterwards is unobservable (`SameObservable`, whatever is
put there). `State.reset` has the same values. -/
def Obligations.ResetStepGivesTheResetValues : Prop :=
  (∀ (s : State) (rest : List Input), s.inputs = .reset :: rest → ∃ t, step s = .next t ∧
    t.crc = 0xFFFF ∧ t.txLen = 0 ∧ t.txOvf = false ∧ t.txOut = [] ∧ t.rxState = .hunt ∧ t.rxLen = 0 ∧
    t.rxPhase = false ∧ t.rxNib = 0 ∧ t.rxOvf = false ∧ t.rxVerdict = .ok ∧ t.responses = s.responses ∧
    ∀ (txb rxb : Memory) (nib : Nibble), SameObservable t { t with txBuf := txb, rxBuf := rxb, rxNib := nib }) ∧
  State.reset.crc = 0xFFFF ∧ State.reset.txLen = 0 ∧ State.reset.txOvf = false ∧ State.reset.txOut = [] ∧
  State.reset.rxState = .hunt ∧ State.reset.rxLen = 0 ∧ State.reset.rxPhase = false ∧ State.reset.rxNib = 0 ∧
  State.reset.rxOvf = false ∧ State.reset.rxVerdict = .ok

/-- 70_reset_and_hazards.md section 1: reset leaves no buffer byte that could be read (the spec derives that none is ever asked
for). The model's choice (log entry 4): what the environment has still to present and the responses it already has stay as
they are, and after `State.reset` both lists are empty. -/
def Obligations.ResetLeavesOnlyWhatTheEnvironmentHolds : Prop :=
  (∀ (s : State) (rest : List Input), s.inputs = .reset :: rest →
    step s = .next { State.reset with inputs := rest, responses := s.responses }) ∧
  (∀ a, State.reset.txBuf.read a = none ∧ State.reset.rxBuf.read a = none) ∧
  State.reset.inputs = [] ∧ State.reset.responses = []

/-- 10_state.md section 6: the invariants hold after reset. -/
def Obligations.InvariantsHoldAtReset : Prop := Invariants State.reset

/-- 10_state.md section 6 (the spec derives it): every step keeps all the invariants, from every state that has them, whatever
is presented. -/
def Obligations.EveryStepKeepsTheInvariants : Prop :=
  ∀ s t : State, Invariants s → step s = .next t → Invariants t

/-- 60_exceptions.md R115: nothing stops the block; from a state with the invariants every step has a next state, and it has
the invariants, so no run of any length ever stops. -/
def Obligations.NoRunEverStops : Prop :=
  ∀ (s : State) (n : Nat), Invariants s → ∃ t, runSteps n s = .next t ∧ Invariants t

/-- 10_state.md section 5 and 70_reset_and_hazards.md section 1 (the spec derives it): buffer bytes at or above the fill levels,
and `RX_NIB` outside BODY with `RX_PHASE = 1`, never show: two states that differ only there answer the same, emit the same and
stay alike, step after step. -/
def Obligations.UnobservableContentsNeverShow : Prop :=
  ∀ (n : Nat) (s t s' : State), SameObservable s t → runSteps n s = .next s' →
    ∃ t', runSteps n t = .next t' ∧ SameObservable s' t'

/-- 20_memory.md section 4, what is written (the units "share no state", the spec derives it): an operation of the CRC engine, the TX framer or the RX deframer changes nothing of the other two. RX.STAT, RX.LEN and RX.RD
change none of the three. What is read: OtherOperationsIgnoreTheCrcRegister, OtherOperationsIgnoreTheFramers. -/
def Obligations.NoUnitWritesAnothersState : Prop :=
  ∀ (i : Instr) (s t : State), exec i s = .next t →
    (usesCrc i = false → t.crc = s.crc) ∧ (ofTx i = false → SameTx s t) ∧ (writesRx i = false → SameRx s t) ∧
    t.inputs = s.inputs

/-- 10_state.md section 2: no operation but CRC.LOAD, CRC.UPD and CRC.RD reads or writes `CRC`: with another value in `CRC` the
outcome is the same but for that value. -/
def Obligations.OtherOperationsIgnoreTheCrcRegister : Prop :=
  ∀ (i : Instr) (s : State) (c : Half), usesCrc i = false →
    exec i { s with crc := c } = mapNext (fun t => { t with crc := c }) (exec i s)

/-- 20_memory.md section 4, what is read: no operation but the four TX commands reads the TX framer's registers, `TXBUF` or
`TXOUT`, and no operation but LINE.RX, LINE.TMO and the four RX commands reads the RX deframer's registers or `RXBUF`: with
those of any other state `u` in their place the outcome, a stop among the possible ones, is the same but for them. -/
def Obligations.OtherOperationsIgnoreTheFramers : Prop :=
  (∀ (i : Instr) (s u : State), ofTx i = false →
    exec i (s.withTxOf u) = mapNext (fun t => t.withTxOf u) (exec i s)) ∧
  (∀ (i : Instr) (s u : State), usesRx i = false →
    exec i (s.withRxOf u) = mapNext (fun t => t.withRxOf u) (exec i s))

/-- 20_memory.md R30 (frame): TX.PUT below 195 bytes stores at `TX_LEN` and LINE.RX completing a byte in BODY stores at `RX_LEN`;
every other byte of both buffers, and every byte under every other operation or form, reads as before. -/
def Obligations.BufferBytesChangeOnlyWhereStored : Prop :=
  ∀ (i : Instr) (s t : State), exec i s = .next t →
    (∀ a, ¬ (∃ b, i = .txPut b ∧ s.txLen.toNat < 195 ∧ a = s.txLen.toNat) → t.txBuf.read a = s.txBuf.read a) ∧
    (∀ b, i = .txPut b → s.txLen.toNat < 195 → t.txBuf.read s.txLen.toNat = some b) ∧
    (∀ a, ¬ (∃ c, i = .lineRx c ∧ c ≠ 0x02 ∧ c ≠ 0x03 ∧ s.rxState = .body ∧ s.rxPhase = true ∧
        s.rxLen.toNat < Config.rxBufBytes ∧ a = s.rxLen.toNat) → t.rxBuf.read a = s.rxBuf.read a) ∧
    (∀ c, i = .lineRx c → c ≠ 0x02 → c ≠ 0x03 → s.rxState = .body → s.rxPhase = true →
      s.rxLen.toNat < Config.rxBufBytes → t.rxBuf.read s.rxLen.toNat = some (s.rxNib ++ hex2nib c))

/-- 20_memory.md section 3 (the spec derives it): RX.RD changes nothing, and repeating it after any operations among which there
is no LINE.RX, LINE.TMO or RX.CLR gives the same response word. -/
def Obligations.RepeatedReadGivesTheSameResponse : Prop :=
  ∀ (idx : Nat) (between : List Instr) (s t u : State), (∀ i ∈ between, writesRx i = false) →
    exec (.rxRd idx) s = .next t → execAll between t = .next u →
    ∃ r : Word20, t = { s with responses := s.responses ++ [r] } ∧
      exec (.rxRd idx) u = .next { u with responses := u.responses ++ [r] }

/-- 60_exceptions.md section 4 (the spec derives it): a command word answered `IllegalOp`, `ShortAnswer`, `NotReady` or `TxEmpty`
changes no state at all. -/
def Obligations.TurnedAwayCommandsChangeNothing : Prop :=
  ∀ (w : Word20) (s t : State) (rest : List Input) (st : Status), s.presents (.command w) rest → step s = .next t →
    st ∈ [Status.illegalOp, .shortAnswer, .notReady, .txEmpty] →
    t.responses = s.responses ++ [responseWord st 0] →
    t = { s with inputs := rest, responses := s.responses ++ [responseWord st 0] }

/-- 60_exceptions.md section 4 (the spec derives it): after TX.CLR and RX.CLR the block behaves as after reset, but for the value
of `CRC` and the bytes already on `TXOUT`: every further run is matched by the same run from there. -/
def Obligations.ClearsRestoreTheBehaviourAfterReset : Prop :=
  ∀ s : State, ∃ u, execAll [.txClr, .rxClr] s = .next u ∧
    ∀ (n : Nat) (v : State), runSteps n u = .next v →
      ∃ w, runSteps n { State.reset with
          crc := s.crc, txOut := s.txOut, inputs := u.inputs, responses := u.responses } = .next w ∧
        SameObservable v w
end

