-- ==== Sys2Proof/Laws/Decode.lean ====
section
/-! SUPPORT. The fields of a command word, said once for the decoder and the encoder. -/

namespace Sys2Proof

theorem commandWord_getLsbD (op : BitVec 4) (arg : Half) (i : Nat) :
    (commandWord op arg).getLsbD i = if i < 16 then arg.getLsbD i else op.getLsbD (i - 16) := by
  exact BitVec.getLsbD_append

theorem opOf_getLsbD (w : Word20) (i : Nat) : (opOf w).getLsbD i = (decide (i < 4) && w.getLsbD (16 + i)) := by
  simp [opOf, BitVec.getLsbD_extractLsb']

theorem argOf_getLsbD (w : Word20) (i : Nat) : (argOf w).getLsbD i = (decide (i < 16) && w.getLsbD i) := by
  simp [argOf, BitVec.getLsbD_extractLsb']

@[simp] theorem opOf_commandWord (op : BitVec 4) (arg : Half) : opOf (commandWord op arg) = op := by
  apply BitVec.eq_of_getLsbD_eq
  intro i hi
  rw [opOf_getLsbD, commandWord_getLsbD]
  simp [hi]

@[simp] theorem argOf_commandWord (op : BitVec 4) (arg : Half) : argOf (commandWord op arg) = arg := by
  apply BitVec.eq_of_getLsbD_eq
  intro i hi
  rw [argOf_getLsbD, commandWord_getLsbD]
  simp [hi]

/-- A word is put together again from its two fields. -/
@[simp] theorem commandWord_fields (w : Word20) : commandWord (opOf w) (argOf w) = w := by
  apply BitVec.eq_of_getLsbD_eq
  intro i hi
  rw [commandWord_getLsbD]
  split
  · rename_i h
    rw [argOf_getLsbD]
    simp [h]
  · rename_i h
    rw [opOf_getLsbD]
    have h1 : i - 16 < 4 := by omega
    have h2 : 16 + (i - 16) = i := by omega
    simp [h1, h2]

@[simp] theorem hiByte_imm8Arg (b : Byte) : hiByte (imm8Arg b) = 0 := by
  have h : ∀ b : Byte, hiByte (imm8Arg b) = 0 := by decide
  exact h b

@[simp] theorem loByte_imm8Arg (b : Byte) : loByte (imm8Arg b) = b := by
  have h : ∀ b : Byte, loByte (imm8Arg b) = b := by decide
  exact h b

theorem append_bytes_getLsbD (hi lo : Byte) (i : Nat) :
    (hi ++ lo : Half).getLsbD i = if i < 8 then lo.getLsbD i else hi.getLsbD (i - 8) := by
  exact BitVec.getLsbD_append

theorem hiByte_getLsbD (v : Half) (i : Nat) : (hiByte v).getLsbD i = (decide (i < 8) && v.getLsbD (8 + i)) := by
  simp [hiByte, BitVec.getLsbD_extractLsb']

theorem loByte_getLsbD (v : Half) (i : Nat) : (loByte v).getLsbD i = (decide (i < 8) && v.getLsbD i) := by
  simp [loByte, BitVec.getLsbD_extractLsb']

@[simp] theorem hiByte_append (hi lo : Byte) : hiByte (hi ++ lo) = hi := by
  apply BitVec.eq_of_getLsbD_eq
  intro i h
  rw [hiByte_getLsbD, append_bytes_getLsbD]
  simp [h]

@[simp] theorem loByte_append (hi lo : Byte) : loByte (hi ++ lo) = lo := by
  apply BitVec.eq_of_getLsbD_eq
  intro i h
  rw [loByte_getLsbD, append_bytes_getLsbD]
  simp [h]

/-- A 16-bit value is put together again from its two bytes. -/
@[simp] theorem append_bytes (v : Half) : (hiByte v ++ loByte v : Half) = v := by
  apply BitVec.eq_of_getLsbD_eq
  intro i hi
  rw [append_bytes_getLsbD, loByte_getLsbD, hiByte_getLsbD]
  by_cases h8 : i < 8
  · simp [h8]
  · have h1 : i - 8 < 8 := by omega
    have h2 : 8 + (i - 8) = i := by omega
    simp [h8, h1, h2]

/-- Under a mask of `op` alone only `op` stays. -/
theorem commandWord_and_opMask (op : BitVec 4) (arg : Half) : commandWord op arg &&& 0xF0000 = commandWord op 0 := by
  apply BitVec.eq_of_getLsbD_eq
  intro i hi
  rw [BitVec.getLsbD_and, commandWord_getLsbD, commandWord_getLsbD]
  interval_cases i <;> simp

/-- Under the mask of shape IMM8 an operand byte does not show. -/
theorem commandWord_and_imm8Mask (op : BitVec 4) (b : Byte) :
    commandWord op (imm8Arg b) &&& 0xFFF00 = commandWord op 0 := by
  apply BitVec.eq_of_getLsbD_eq
  intro i hi
  rw [BitVec.getLsbD_and, commandWord_getLsbD, commandWord_getLsbD]
  interval_cases i <;> simp [imm8Arg]

end Sys2Proof
end

