-- ==== Sys2Proof/Laws/State.lean ====
section
/-! SUPPORT. What each shared update of the state does to each field: one lemma a field, so that no proof unfolds an update. -/

namespace Sys2Proof.Machine

variable (s : State)

/-! ### `respond` -/

@[simp] theorem respond_crc (st : Status) (res : Half) : (respond st res s).crc = s.crc := rfl
@[simp] theorem respond_txBuf (st : Status) (res : Half) : (respond st res s).txBuf = s.txBuf := rfl
@[simp] theorem respond_txLen (st : Status) (res : Half) : (respond st res s).txLen = s.txLen := rfl
@[simp] theorem respond_txOvf (st : Status) (res : Half) : (respond st res s).txOvf = s.txOvf := rfl
@[simp] theorem respond_txOut (st : Status) (res : Half) : (respond st res s).txOut = s.txOut := rfl
@[simp] theorem respond_rxBuf (st : Status) (res : Half) : (respond st res s).rxBuf = s.rxBuf := rfl
@[simp] theorem respond_rxLen (st : Status) (res : Half) : (respond st res s).rxLen = s.rxLen := rfl
@[simp] theorem respond_rxState (st : Status) (res : Half) : (respond st res s).rxState = s.rxState := rfl
@[simp] theorem respond_rxPhase (st : Status) (res : Half) : (respond st res s).rxPhase = s.rxPhase := rfl
@[simp] theorem respond_rxNib (st : Status) (res : Half) : (respond st res s).rxNib = s.rxNib := rfl
@[simp] theorem respond_rxOvf (st : Status) (res : Half) : (respond st res s).rxOvf = s.rxOvf := rfl
@[simp] theorem respond_rxVerdict (st : Status) (res : Half) : (respond st res s).rxVerdict = s.rxVerdict := rfl
@[simp] theorem respond_inputs (st : Status) (res : Half) : (respond st res s).inputs = s.inputs := rfl
@[simp] theorem respond_responses (st : Status) (res : Half) : (respond st res s).responses = s.responses ++ [responseWord st res] := rfl

/-! ### `clearTx` -/

@[simp] theorem clearTx_crc : (clearTx s).crc = s.crc := rfl
@[simp] theorem clearTx_txBuf : (clearTx s).txBuf = s.txBuf := rfl
@[simp] theorem clearTx_txLen : (clearTx s).txLen = 0 := rfl
@[simp] theorem clearTx_txOvf : (clearTx s).txOvf = false := rfl
@[simp] theorem clearTx_txOut : (clearTx s).txOut = s.txOut := rfl
@[simp] theorem clearTx_rxBuf : (clearTx s).rxBuf = s.rxBuf := rfl
@[simp] theorem clearTx_rxLen : (clearTx s).rxLen = s.rxLen := rfl
@[simp] theorem clearTx_rxState : (clearTx s).rxState = s.rxState := rfl
@[simp] theorem clearTx_rxPhase : (clearTx s).rxPhase = s.rxPhase := rfl
@[simp] theorem clearTx_rxNib : (clearTx s).rxNib = s.rxNib := rfl
@[simp] theorem clearTx_rxOvf : (clearTx s).rxOvf = s.rxOvf := rfl
@[simp] theorem clearTx_rxVerdict : (clearTx s).rxVerdict = s.rxVerdict := rfl
@[simp] theorem clearTx_inputs : (clearTx s).inputs = s.inputs := rfl
@[simp] theorem clearTx_responses : (clearTx s).responses = s.responses := rfl

/-! ### `clearRx` -/

@[simp] theorem clearRx_crc : (clearRx s).crc = s.crc := rfl
@[simp] theorem clearRx_txBuf : (clearRx s).txBuf = s.txBuf := rfl
@[simp] theorem clearRx_txLen : (clearRx s).txLen = s.txLen := rfl
@[simp] theorem clearRx_txOvf : (clearRx s).txOvf = s.txOvf := rfl
@[simp] theorem clearRx_txOut : (clearRx s).txOut = s.txOut := rfl
@[simp] theorem clearRx_rxBuf : (clearRx s).rxBuf = s.rxBuf := rfl
@[simp] theorem clearRx_rxLen : (clearRx s).rxLen = 0 := rfl
@[simp] theorem clearRx_rxState : (clearRx s).rxState = s.rxState := rfl
@[simp] theorem clearRx_rxPhase : (clearRx s).rxPhase = false := rfl
@[simp] theorem clearRx_rxNib : (clearRx s).rxNib = s.rxNib := rfl
@[simp] theorem clearRx_rxOvf : (clearRx s).rxOvf = false := rfl
@[simp] theorem clearRx_rxVerdict : (clearRx s).rxVerdict = s.rxVerdict := rfl
@[simp] theorem clearRx_inputs : (clearRx s).inputs = s.inputs := rfl
@[simp] theorem clearRx_responses : (clearRx s).responses = s.responses := rfl

/-! ### `emit` -/

@[simp] theorem emit_crc (ws : List Byte) : (emit ws s).crc = s.crc := rfl
@[simp] theorem emit_txBuf (ws : List Byte) : (emit ws s).txBuf = s.txBuf := rfl
@[simp] theorem emit_txLen (ws : List Byte) : (emit ws s).txLen = s.txLen := rfl
@[simp] theorem emit_txOvf (ws : List Byte) : (emit ws s).txOvf = s.txOvf := rfl
@[simp] theorem emit_txOut (ws : List Byte) : (emit ws s).txOut = s.txOut ++ ws := rfl
@[simp] theorem emit_rxBuf (ws : List Byte) : (emit ws s).rxBuf = s.rxBuf := rfl
@[simp] theorem emit_rxLen (ws : List Byte) : (emit ws s).rxLen = s.rxLen := rfl
@[simp] theorem emit_rxState (ws : List Byte) : (emit ws s).rxState = s.rxState := rfl
@[simp] theorem emit_rxPhase (ws : List Byte) : (emit ws s).rxPhase = s.rxPhase := rfl
@[simp] theorem emit_rxNib (ws : List Byte) : (emit ws s).rxNib = s.rxNib := rfl
@[simp] theorem emit_rxOvf (ws : List Byte) : (emit ws s).rxOvf = s.rxOvf := rfl
@[simp] theorem emit_rxVerdict (ws : List Byte) : (emit ws s).rxVerdict = s.rxVerdict := rfl
@[simp] theorem emit_inputs (ws : List Byte) : (emit ws s).inputs = s.inputs := rfl
@[simp] theorem emit_responses (ws : List Byte) : (emit ws s).responses = s.responses := rfl

/-! ### `presentNext` -/

@[simp] theorem presentNext_crc (p : PortWord) : (presentNext p s).crc = s.crc := rfl
@[simp] theorem presentNext_txBuf (p : PortWord) : (presentNext p s).txBuf = s.txBuf := rfl
@[simp] theorem presentNext_txLen (p : PortWord) : (presentNext p s).txLen = s.txLen := rfl
@[simp] theorem presentNext_txOvf (p : PortWord) : (presentNext p s).txOvf = s.txOvf := rfl
@[simp] theorem presentNext_txOut (p : PortWord) : (presentNext p s).txOut = s.txOut := rfl
@[simp] theorem presentNext_rxBuf (p : PortWord) : (presentNext p s).rxBuf = s.rxBuf := rfl
@[simp] theorem presentNext_rxLen (p : PortWord) : (presentNext p s).rxLen = s.rxLen := rfl
@[simp] theorem presentNext_rxState (p : PortWord) : (presentNext p s).rxState = s.rxState := rfl
@[simp] theorem presentNext_rxPhase (p : PortWord) : (presentNext p s).rxPhase = s.rxPhase := rfl
@[simp] theorem presentNext_rxNib (p : PortWord) : (presentNext p s).rxNib = s.rxNib := rfl
@[simp] theorem presentNext_rxOvf (p : PortWord) : (presentNext p s).rxOvf = s.rxOvf := rfl
@[simp] theorem presentNext_rxVerdict (p : PortWord) : (presentNext p s).rxVerdict = s.rxVerdict := rfl
@[simp] theorem presentNext_inputs (p : PortWord) : (presentNext p s).inputs = .op p :: s.inputs := rfl
@[simp] theorem presentNext_responses (p : PortWord) : (presentNext p s).responses = s.responses := rfl

/-! ### `applyReset` -/

@[simp] theorem applyReset_crc : (applyReset s).crc = State.reset.crc := rfl
@[simp] theorem applyReset_txBuf : (applyReset s).txBuf = State.reset.txBuf := rfl
@[simp] theorem applyReset_txLen : (applyReset s).txLen = State.reset.txLen := rfl
@[simp] theorem applyReset_txOvf : (applyReset s).txOvf = State.reset.txOvf := rfl
@[simp] theorem applyReset_txOut : (applyReset s).txOut = State.reset.txOut := rfl
@[simp] theorem applyReset_rxBuf : (applyReset s).rxBuf = State.reset.rxBuf := rfl
@[simp] theorem applyReset_rxLen : (applyReset s).rxLen = State.reset.rxLen := rfl
@[simp] theorem applyReset_rxState : (applyReset s).rxState = State.reset.rxState := rfl
@[simp] theorem applyReset_rxPhase : (applyReset s).rxPhase = State.reset.rxPhase := rfl
@[simp] theorem applyReset_rxNib : (applyReset s).rxNib = State.reset.rxNib := rfl
@[simp] theorem applyReset_rxOvf : (applyReset s).rxOvf = State.reset.rxOvf := rfl
@[simp] theorem applyReset_rxVerdict : (applyReset s).rxVerdict = State.reset.rxVerdict := rfl
@[simp] theorem applyReset_inputs : (applyReset s).inputs = s.inputs := rfl
@[simp] theorem applyReset_responses : (applyReset s).responses = s.responses := rfl

end Sys2Proof.Machine
end

