-- ==== Sys2Proof/Laws/Ops.lean ====
section
/-! SUPPORT. What the shared operations do, said once: the body buffers, responses, the next input. -/

namespace Sys2Proof.Machine

/-! ## Reading after writing -/

@[simp] theorem Memory.read_nil (a : Nat) : Memory.read [] a = none := rfl

/-- A read of the byte just written gives it. -/
@[simp] theorem Memory.read_write_self (m : Memory) (a : Nat) (v : Byte) : (m.write a v).read a = some v := by
  induction m with
  | nil => simp [Memory.write, Memory.read]
  | cons c rest ih =>
    obtain ⟨x, b⟩ := c
    by_cases h1 : a < x
    · simp [Memory.write, Memory.read, h1]
    · by_cases h2 : a = x
      · simp [Memory.write, Memory.read, h2]
      · simp [Memory.write, Memory.read, h1, h2, Ne.symm h2, ih]

/-- A write leaves every other index as it was. -/
theorem Memory.read_write_of_ne (m : Memory) {a a' : Nat} (v : Byte) (h : a' ≠ a) :
    (m.write a v).read a' = m.read a' := by
  induction m with
  | nil => simp [Memory.write, Memory.read, Ne.symm h]
  | cons c rest ih =>
    obtain ⟨x, b⟩ := c
    by_cases h1 : a < x
    · simp [Memory.write, Memory.read, h1, Ne.symm h]
    · by_cases h2 : a = x
      · subst h2
        simp [Memory.write, Memory.read, Ne.symm h]
      · simp [Memory.write, Memory.read, h1, h2, ih]

theorem Memory.read_write (m : Memory) (a a' : Nat) (v : Byte) :
    (m.write a v).read a' = if a' = a then some v else m.read a' := by
  by_cases h : a' = a
  · simp [h]
  · simp [h, Memory.read_write_of_ne m v h]

/-! ## The canonical form -/

theorem Memory.mem_write {m : Memory} {a : Nat} {v : Byte} {c : Host.Cell} (h : c ∈ m.write a v) :
    c = (a, v) ∨ c ∈ m := by
  induction m with
  | nil => simpa [Memory.write] using h
  | cons d rest ih =>
    obtain ⟨x, b⟩ := d
    simp only [Memory.write] at h
    split at h
    · simpa using h
    · split at h
      · simp only [List.mem_cons] at h ⊢
        tauto
      · simp only [List.mem_cons] at h ⊢
        rcases h with h | h
        · exact .inr (.inl h)
        · rcases ih h with h | h <;> tauto

/-- Every write inside the buffer keeps the canonical form. -/
theorem Memory.wf_write {cap : Nat} {m : Memory} {a : Nat} (v : Byte) (hm : m.wf cap) (ha : a < cap) :
    (m.write a v).wf cap := by
  refine ⟨?_, fun c hc => ?_⟩
  · have hs := hm.1
    clear hm
    induction m with
    | nil => simp [Memory.write]
    | cons d rest ih =>
      obtain ⟨x, b⟩ := d
      have hd := List.pairwise_cons.mp hs
      simp only [Memory.write]
      split
      · rename_i h
        exact List.pairwise_cons.mpr ⟨fun c hc => by
          rcases List.mem_cons.mp hc with rfl | hc
          · exact h
          · exact Nat.lt_trans h (hd.1 c hc), hs⟩
      · split
        · rename_i h
          exact List.pairwise_cons.mpr ⟨fun c hc => by simpa [h] using hd.1 c hc, hd.2⟩
        · rename_i h1 h2
          refine List.pairwise_cons.mpr ⟨fun c hc => ?_, ih hd.2⟩
          rcases Memory.mem_write hc with rfl | hc
          · show x < a
            omega
          · exact hd.1 c hc
  · rcases Memory.mem_write hc with rfl | hc
    · exact ha
    · exact hm.2 c hc

@[simp] theorem Memory.wf_nil (cap : Nat) : Memory.wf cap [] := by simp [Memory.wf]

/-! ## The bytes below a fill level -/

@[simp] theorem Memory.readPrefix_zero (m : Memory) : m.readPrefix 0 = .ok [] := rfl

theorem Memory.readPrefix_succ_ok {m : Memory} {n : Nat} {bs : List Byte} {b : Byte}
    (h : m.readPrefix n = .ok bs) (hb : m.read n = some b) : m.readPrefix (n + 1) = .ok (bs ++ [b]) := by
  simp [Memory.readPrefix, h, hb]

/-- Reading `n` bytes succeeds with `bs` exactly when `bs` lists the bytes at indices 0 to `n - 1`. -/
theorem Memory.readPrefix_eq_ok_iff {m : Memory} {n : Nat} {bs : List Byte} :
    m.readPrefix n = .ok bs ↔ bs.length = n ∧ ∀ a < n, m.read a = bs[a]? := by
  induction n generalizing bs with
  | zero =>
    constructor
    · intro h
      cases h
      simp
    · rintro ⟨h, -⟩
      rw [List.length_eq_zero_iff.mp h]
      rfl
  | succ n ih =>
    constructor
    · intro h
      simp only [Memory.readPrefix] at h
      split at h
      · cases h
      · rename_i pre hp
        split at h
        · cases h
        · rename_i b hb
          cases h
          obtain ⟨hl, hr⟩ := ih.mp hp
          refine ⟨by simp [hl], fun a ha => ?_⟩
          by_cases hn : a = n
          · rw [hn, hb, ← hl]
            simp
          · rw [hr a (by omega), List.getElem?_append_left (by omega)]
    · rintro ⟨hl, hr⟩
      obtain ⟨pre, b, rfl⟩ : ∃ pre b, bs = pre ++ [b] :=
        ⟨_, _, (List.dropLast_concat_getLast (List.ne_nil_of_length_eq_add_one hl)).symm⟩
      have hpre : pre.length = n := by simpa using hl
      refine Memory.readPrefix_succ_ok (ih.mpr ⟨hpre, fun a ha => ?_⟩) ?_
      · rw [hr a (by omega), List.getElem?_append_left (by omega)]
      · rw [hr n (by omega)]
        simp [← hpre]

/-- Reading below a level that is all written succeeds. -/
theorem Memory.readPrefix_of_written {m : Memory} {n : Nat} (h : ∀ a < n, (m.read a).isSome = true) :
    ∃ bs, m.readPrefix n = .ok bs := by
  induction n with
  | zero => exact ⟨[], rfl⟩
  | succ n ih =>
    obtain ⟨bs, hbs⟩ := ih fun a ha => h a (by omega)
    obtain ⟨b, hb⟩ := Option.isSome_iff_exists.mp (h n (by omega))
    exact ⟨bs ++ [b], Memory.readPrefix_succ_ok hbs hb⟩

theorem Memory.readPrefix_length {m : Memory} {n : Nat} {bs : List Byte} (h : m.readPrefix n = .ok bs) :
    bs.length = n := (Memory.readPrefix_eq_ok_iff.mp h).1

/-- Two buffers that agree below `n` are read alike there, faults included. -/
theorem Memory.readPrefix_congr {m m' : Memory} {n : Nat} (h : ∀ a < n, m.read a = m'.read a) :
    m.readPrefix n = m'.readPrefix n := by
  induction n with
  | zero => rfl
  | succ n ih =>
    simp only [Memory.readPrefix, ih fun a ha => h a (by omega), h n (by omega)]

/-- Writing at the fill level adds one byte to what is read below the next level. -/
theorem Memory.readPrefix_write {m : Memory} {n : Nat} {bs : List Byte} (v : Byte) (h : m.readPrefix n = .ok bs) :
    (m.write n v).readPrefix (n + 1) = .ok (bs ++ [v]) := by
  refine Memory.readPrefix_succ_ok ?_ (Memory.read_write_self m n v)
  rw [← h]
  exact Memory.readPrefix_congr fun a ha => Memory.read_write_of_ne m v (by omega)

/-! ## Responses -/

theorem complete_eq (res : Half) (s : State) : complete res s = .next (respond .ok res s) := rfl

theorem raise_eq (st : Status) (s : State) : raise st s = .next (respond st 0 s) := rfl

theorem answerIllegal_eq (s : State) : answerIllegal s = .next (respond .illegalOp 0 s) := rfl

theorem Status.code_injective : Function.Injective Status.code := by
  intro a b h
  cases a <;> cases b <;> first | rfl | exact absurd h (by decide)

/-! ## The next input -/

theorem takeInput_nil {s : State} (h : s.inputs = []) : takeInput s = none := by
  simp [takeInput, h]

theorem takeInput_cons {s : State} {i : Input} {rest : List Input} (h : s.inputs = i :: rest) :
    takeInput s = some (i, { s with inputs := rest }) := by
  simp [takeInput, h]

end Sys2Proof.Machine

/-! ## The parameters -/

namespace Sys2Proof

theorem Config.rxBufBytes_bounds : 3 ≤ Config.rxBufBytes ∧ Config.rxBufBytes ≤ 65535 := by
  have := Config.rxBufExtra.isLt
  unfold Config.rxBufBytes
  omega

theorem Config.txBufBytes_eq : Config.txBufBytes = 195 := rfl

end Sys2Proof
end

