-- ==== Sys2Proof/Laws/PerInstr.lean ====
section
/-! SUPPORT. Statements about every instruction as syntax, one lemma per constructor. -/

namespace Sys2Proof.Laws.MatchesRow

/-- The encoding of an instruction is on its row's own port, and a command's word is selected by the row of its own mnemonic
in 30_encoding.md R48 (match and mask). -/
def Statement (i : Instr) : Prop :=
  match encode i with
  | .command w => ∃ row ∈ commandRows, row.1 = i.mnemonic ∧ rowSelects w row = true
  | .lineByte c => i = .lineRx c
  | .lineStrobe => i = .lineTmo

theorem crcLoad (v : Half) : Statement (.crcLoad v) :=
  ⟨_, .head _, rfl, by simpa [rowSelects, commandWord] using commandWord_and_opMask 0x0 v⟩

theorem crcUpd (b : Byte) : Statement (.crcUpd b) :=
  ⟨("CRC.UPD", 0x10000, 0xFFF00), by simp [commandRows], rfl, by simpa [rowSelects, commandWord] using commandWord_and_imm8Mask 0x1 b⟩

theorem crcRd : Statement .crcRd :=
  ⟨("CRC.RD", 0x20000, 0xFFFFF), by simp [commandRows], rfl, by decide⟩

theorem hexEnc (b : Byte) : Statement (.hexEnc b) :=
  ⟨("HEX.ENC", 0x30000, 0xFFF00), by simp [commandRows], rfl, by simpa [rowSelects, commandWord] using commandWord_and_imm8Mask 0x3 b⟩

theorem hexDec (cHi cLo : Byte) : Statement (.hexDec cHi cLo) :=
  ⟨("HEX.DEC", 0x40000, 0xF0000), by simp [commandRows], rfl,
    by simpa [rowSelects, commandWord] using commandWord_and_opMask 0x4 (cHi ++ cLo)⟩

theorem txClr : Statement .txClr :=
  ⟨("TX.CLR", 0x50000, 0xFFFFF), by simp [commandRows], rfl, by decide⟩

theorem txPut (b : Byte) : Statement (.txPut b) :=
  ⟨("TX.PUT", 0x60000, 0xFFF00), by simp [commandRows], rfl, by simpa [rowSelects, commandWord] using commandWord_and_imm8Mask 0x6 b⟩

theorem txSend : Statement .txSend :=
  ⟨("TX.SEND", 0x70000, 0xFFFFF), by simp [commandRows], rfl, by decide⟩

theorem txStat : Statement .txStat :=
  ⟨("TX.STAT", 0x80000, 0xFFFFF), by simp [commandRows], rfl, by decide⟩

theorem rxStat : Statement .rxStat :=
  ⟨("RX.STAT", 0x90000, 0xFFFFF), by simp [commandRows], rfl, by decide⟩

theorem rxLen : Statement .rxLen :=
  ⟨("RX.LEN", 0xA0000, 0xFFFFF), by simp [commandRows], rfl, by decide⟩

theorem rxRd (idx : Nat) : Statement (.rxRd idx) :=
  ⟨("RX.RD", 0xB0000, 0xF0000), by simp [commandRows], rfl,
    by simpa [rowSelects, commandWord] using commandWord_and_opMask 0xB (BitVec.ofNat 16 idx)⟩

theorem rxClr : Statement .rxClr :=
  ⟨("RX.CLR", 0xC0000, 0xFFFFF), by simp [commandRows], rfl, by decide⟩

theorem lineRx (c : Byte) : Statement (.lineRx c) := rfl

theorem lineTmo : Statement .lineTmo := rfl

end Sys2Proof.Laws.MatchesRow
end

