-- ==== Sys2Proof/Laws/Run.lean ====
section
/-! SUPPORT. How a run of several steps goes on from its first step. -/

namespace Sys2Proof.Machine

/-- A run of any machine goes on from its first step. -/
theorem run_succ_eq (M : Host.Core) (n : Nat) (s : M.State) :
    M.run (n + 1) s = match M.step s with
      | .next t => M.run n t
      | .fault r => .fault r
      | .refused r => .refused r := by
  cases h : M.step s <;> simp [Host.Core.run, h]

@[simp] theorem runSteps_zero (s : State) : runSteps 0 s = .next s := rfl

theorem runSteps_succ_of_next {n : Nat} {s t : State} (h : step s = .next t) : runSteps (n + 1) s = runSteps n t := by
  have h' : Sys2Proof.core.step s = .next t := h
  exact (run_succ_eq Sys2Proof.core n s).trans (by rw [h']; rfl)

theorem runSteps_succ_of_fault {n : Nat} {s : State} {r : Fault} (h : step s = .fault r) :
    runSteps (n + 1) s = .fault r := by
  have h' : Sys2Proof.core.step s = .fault r := h
  exact (run_succ_eq Sys2Proof.core n s).trans (by rw [h']; rfl)

theorem runSteps_succ_of_refused {n : Nat} {s : State} {r : Refusal} (h : step s = .refused r) :
    runSteps (n + 1) s = .refused r := by
  have h' : Sys2Proof.core.step s = .refused r := h
  exact (run_succ_eq Sys2Proof.core n s).trans (by rw [h']; rfl)

/-- A run is cut in two anywhere. -/
theorem runSteps_add {m n : Nat} {s t : State} (h : runSteps m s = .next t) : runSteps (m + n) s = runSteps n t := by
  induction m generalizing s with
  | zero =>
    rw [runSteps_zero] at h
    cases h
    rw [Nat.zero_add]
  | succ m ih =>
    rw [Nat.add_right_comm]
    cases hs : step s with
    | next u =>
      rw [runSteps_succ_of_next hs] at h ⊢
      exact ih h
    | fault r =>
      rw [runSteps_succ_of_fault hs] at h
      cases h
    | refused r =>
      rw [runSteps_succ_of_refused hs] at h
      cases h

end Sys2Proof.Machine
end

