-- ==== Sys2Proof/Laws/Safety.lean ====
section
/-! SUPPORT. One lemma per field for the exchange of one framer's state, `withTxOf` and `withRxOf`, and what `mapNext` does. -/

namespace Sys2Proof.Machine

@[simp] theorem State.withTxOf_crc (s u : State) : (s.withTxOf u).crc = s.crc := rfl
@[simp] theorem State.withTxOf_txBuf (s u : State) : (s.withTxOf u).txBuf = u.txBuf := rfl
@[simp] theorem State.withTxOf_txLen (s u : State) : (s.withTxOf u).txLen = u.txLen := rfl
@[simp] theorem State.withTxOf_txOvf (s u : State) : (s.withTxOf u).txOvf = u.txOvf := rfl
@[simp] theorem State.withTxOf_txOut (s u : State) : (s.withTxOf u).txOut = u.txOut := rfl
@[simp] theorem State.withTxOf_rxBuf (s u : State) : (s.withTxOf u).rxBuf = s.rxBuf := rfl
@[simp] theorem State.withTxOf_rxLen (s u : State) : (s.withTxOf u).rxLen = s.rxLen := rfl
@[simp] theorem State.withTxOf_rxState (s u : State) : (s.withTxOf u).rxState = s.rxState := rfl
@[simp] theorem State.withTxOf_rxPhase (s u : State) : (s.withTxOf u).rxPhase = s.rxPhase := rfl
@[simp] theorem State.withTxOf_rxNib (s u : State) : (s.withTxOf u).rxNib = s.rxNib := rfl
@[simp] theorem State.withTxOf_rxOvf (s u : State) : (s.withTxOf u).rxOvf = s.rxOvf := rfl
@[simp] theorem State.withTxOf_rxVerdict (s u : State) : (s.withTxOf u).rxVerdict = s.rxVerdict := rfl
@[simp] theorem State.withTxOf_inputs (s u : State) : (s.withTxOf u).inputs = s.inputs := rfl
@[simp] theorem State.withTxOf_responses (s u : State) : (s.withTxOf u).responses = s.responses := rfl

@[simp] theorem State.withRxOf_crc (s u : State) : (s.withRxOf u).crc = s.crc := rfl
@[simp] theorem State.withRxOf_txBuf (s u : State) : (s.withRxOf u).txBuf = s.txBuf := rfl
@[simp] theorem State.withRxOf_txLen (s u : State) : (s.withRxOf u).txLen = s.txLen := rfl
@[simp] theorem State.withRxOf_txOvf (s u : State) : (s.withRxOf u).txOvf = s.txOvf := rfl
@[simp] theorem State.withRxOf_txOut (s u : State) : (s.withRxOf u).txOut = s.txOut := rfl
@[simp] theorem State.withRxOf_rxBuf (s u : State) : (s.withRxOf u).rxBuf = u.rxBuf := rfl
@[simp] theorem State.withRxOf_rxLen (s u : State) : (s.withRxOf u).rxLen = u.rxLen := rfl
@[simp] theorem State.withRxOf_rxState (s u : State) : (s.withRxOf u).rxState = u.rxState := rfl
@[simp] theorem State.withRxOf_rxPhase (s u : State) : (s.withRxOf u).rxPhase = u.rxPhase := rfl
@[simp] theorem State.withRxOf_rxNib (s u : State) : (s.withRxOf u).rxNib = u.rxNib := rfl
@[simp] theorem State.withRxOf_rxOvf (s u : State) : (s.withRxOf u).rxOvf = u.rxOvf := rfl
@[simp] theorem State.withRxOf_rxVerdict (s u : State) : (s.withRxOf u).rxVerdict = u.rxVerdict := rfl
@[simp] theorem State.withRxOf_inputs (s u : State) : (s.withRxOf u).inputs = s.inputs := rfl
@[simp] theorem State.withRxOf_responses (s u : State) : (s.withRxOf u).responses = s.responses := rfl

/-- A response commutes with the exchange: it reads and writes no framer state. -/
@[simp] theorem respond_withTxOf (st : Status) (res : Half) (s u : State) :
    respond st res (s.withTxOf u) = (respond st res s).withTxOf u := rfl

@[simp] theorem respond_withRxOf (st : Status) (res : Half) (s u : State) :
    respond st res (s.withRxOf u) = (respond st res s).withRxOf u := rfl

@[simp] theorem mapNext_next (f : State → State) (t : State) : mapNext f (.next t) = .next (f t) := rfl

@[simp] theorem mapNext_fault (f : State → State) (r : Fault) : mapNext f (.fault r) = .fault r := rfl

@[simp] theorem mapNext_refused (f : State → State) (r : Refusal) : mapNext f (.refused r) = .refused r := rfl

end Sys2Proof.Machine
end

