-- ==== Sys2Proof/Laws/Units.lean ====
section
/-! SUPPORT. The pure functions of the units: `crc16`, the nibble functions, the frame, the verdict. -/

namespace Sys2Proof.Machine

/-! ## CRC engine -/

@[simp] theorem crc16_nil (init : Half) : crc16 [] init = init := rfl

@[simp] theorem crc16_cons (b : Byte) (rest : List Byte) (init : Half) :
    crc16 (b :: rest) init = crc16 rest (crcStep init b) := rfl

/-- "a sequence may be folded in pieces" (40_crc.md R73). -/
theorem crc16_append (a b : List Byte) (init : Half) : crc16 (a ++ b) init = crc16 b (crc16 a init) := by
  induction a generalizing init with
  | nil => rfl
  | cons x rest ih => simp [ih]

/-! ## Hex units -/

/-- `hex2nib` undoes `nib2hex`, whatever `HEXNIB_OTHER` is (41_hex.md R79). -/
@[simp] theorem hex2nib_nib2hex (n : Nibble) : hex2nib (nib2hex n) = n := by
  have h : ∀ n : Nibble, (0x30 ≤ nib2hex n ∧ nib2hex n ≤ 0x39 ∧ (nib2hex n - 0x30).setWidth 4 = n) ∨
      (¬ (0x30 ≤ nib2hex n ∧ nib2hex n ≤ 0x39) ∧ 0x41 ≤ nib2hex n ∧ nib2hex n ≤ 0x46 ∧
        (nib2hex n - 0x37).setWidth 4 = n) := by decide
  rcases h n with ⟨h1, h2, h3⟩ | ⟨h0, h1, h2, h3⟩
  · simp only [hex2nib, if_pos (And.intro h1 h2), h3]
  · simp only [hex2nib, if_neg h0, if_pos (And.intro h1 h2), h3]

/-- The two nibbles of a byte put together again. -/
@[simp] theorem byteOfNibbles_nibbles (b : Byte) : byteOfNibbles (hiNibble b) (loNibble b) = b := by
  have h : ∀ b : Byte, byteOfNibbles (hiNibble b) (loNibble b) = b := by decide
  exact h b

@[simp] theorem bytesToHex_length (bs : List Byte) : (bytesToHex bs).length = 2 * bs.length := by
  induction bs with
  | nil => rfl
  | cons b rest ih =>
    simp only [bytesToHex, List.length_cons, ih]
    omega

theorem bytesToHex_append (a b : List Byte) : bytesToHex (a ++ b) = bytesToHex a ++ bytesToHex b := by
  induction a with
  | nil => rfl
  | cons x rest ih => simp [bytesToHex, ih]

/-- The encoder emits no delimiter (41_hex.md R81). -/
theorem nib2hex_ne_delimiter (n : Nibble) : nib2hex n ≠ 0x02 ∧ nib2hex n ≠ 0x03 := by
  have h : ∀ n : Nibble, nib2hex n ≠ 0x02 ∧ nib2hex n ≠ 0x03 := by decide
  exact h n

/-! ## RX deframer -/

/-- Below a fill level that is all written the verdict is computed, never a fault. -/
theorem verdictAtEtx_of_written {s : State} (h : ∀ a < s.rxLen.toNat, (s.rxBuf.read a).isSome = true) :
    ∃ v, verdictAtEtx s = .ok v := by
  unfold verdictAtEtx
  split
  · exact ⟨_, rfl⟩
  · split
    · exact ⟨_, rfl⟩
    · rename_i hl
      have h3 : ¬ s.rxLen.toNat < 3 := fun h' => hl (.inr h')
      obtain ⟨bs, hbs⟩ := Memory.readPrefix_of_written (n := s.rxLen.toNat - 2) fun a ha => h a (by omega)
      obtain ⟨lo, hlo⟩ := Option.isSome_iff_exists.mp (h (s.rxLen.toNat - 2) (by omega))
      obtain ⟨hi, hhi⟩ := Option.isSome_iff_exists.mp (h (s.rxLen.toNat - 1) (by omega))
      exact ⟨_, by simp only [crcVerdict, hbs, hlo, hhi]; rfl⟩

end Sys2Proof.Machine
end

