-- ==== Sys2Proof/Tests/Slice0.lean ====
section
/-! SUPPORT. Small tests against the vectors of 95_test_vectors.md and words written out from 30_encoding.md, and for every
statement with hypotheses a concrete state and operands that meet them. -/

namespace Sys2Proof.Tests

open Sys2Proof Sys2Proof.Machine

/-! ## Helpers -/

/-- One field of the next state, if there is a next state. -/
def afterwards {α : Type} (f : State → α) : Host.Outcome State Fault Refusal → Option α
  | .next t => some (f t)
  | .fault _ => none
  | .refused _ => none

/-- The responses given since reset, from one effect on a state that has given none. -/
abbrev answers (i : Instr) (s : State) : Option (List Word20) := afterwards (·.responses) (exec i s)

/-- After reset, with one operation presented. -/
def presenting (p : PortWord) : State := { State.reset with inputs := [.op p] }

/-- The bytes of V-RX row RX1, `85 DD 20`. -/
def rx1Bytes : Memory := [(0, 0x85), (1, 0xDD), (2, 0x20)]

/-- A deframer in BODY with `n` of the bytes of RX1. -/
def inBody (n : BitVec 16) (phase ovf : Bool) : State :=
  { State.reset with rxState := .body, rxLen := n, rxBuf := rx1Bytes.take n.toNat, rxPhase := phase, rxOvf := ovf }

/-- V-RX row RX1 at its end. -/
def afterRx1 : State := { State.reset with rxState := .done, rxLen := 3, rxBuf := rx1Bytes }

/-- A deframer in DONE with this verdict. -/
def inDone (v : Status) : State := { State.reset with rxState := .done, rxVerdict := v }

/-- A framer with `n` bytes counted and the bytes `05 00` stored. -/
def txWith (n : BitVec 8) (ovf : Bool) : State := { State.reset with txLen := n, txOvf := ovf, txBuf := [(0, 0x05), (1, 0x00)] }

/-- A deframer in BODY whose buffer is counted full. -/
def rxFull : State := { State.reset with rxState := .body, rxPhase := true, rxLen := BitVec.ofNat 16 Config.rxBufBytes }

theorem rxFull_len : rxFull.rxLen.toNat = Config.rxBufBytes := by
  have h := Config.rxBufBytes_bounds
  show (BitVec.ofNat 16 Config.rxBufBytes).toNat = _
  rw [BitVec.toNat_ofNat]
  omega

/-! ## Well-formedness -/

theorem test_wellFormed_refuses_wide_index : (Instr.rxRd 65536).wellFormed = false := by decide

theorem test_wellFormed_widest_index : (Instr.rxRd 65535).wellFormed = true := by decide

/-! ## Decoding: words written out from 30_encoding.md R45, R47, R48 (`op` in bits 19:16, `arg` below), R52, R60 -/

theorem test_decode_crcLoad : decode (.command 0b0000_1010_0101_1111_0000) = .ok (.crcLoad 0xA5F0) := by decide
theorem test_decode_crcUpd : decode (.command 0b0001_0000_0000_1010_0101) = .ok (.crcUpd 0xA5) := by decide
theorem test_decode_crcRd : decode (.command 0b0010_0000_0000_0000_0000) = .ok .crcRd := by decide
theorem test_decode_hexEnc : decode (.command 0b0011_0000_0000_1010_0101) = .ok (.hexEnc 0xA5) := by decide
theorem test_decode_hexDec : decode (.command 0b0100_0100_0001_0011_0101) = .ok (.hexDec 0x41 0x35) := by decide
theorem test_decode_txClr : decode (.command 0b0101_0000_0000_0000_0000) = .ok .txClr := by decide
theorem test_decode_txPut : decode (.command 0b0110_0000_0000_0111_0111) = .ok (.txPut 0x77) := by decide
theorem test_decode_txSend : decode (.command 0b0111_0000_0000_0000_0000) = .ok .txSend := by decide
theorem test_decode_txStat : decode (.command 0b1000_0000_0000_0000_0000) = .ok .txStat := by decide
theorem test_decode_rxStat : decode (.command 0b1001_0000_0000_0000_0000) = .ok .rxStat := by decide
theorem test_decode_rxLen : decode (.command 0b1010_0000_0000_0000_0000) = .ok .rxLen := by decide
theorem test_decode_rxRd : decode (.command 0b1011_1000_0000_0000_0001) = .ok (.rxRd 0x8001) := by decide
theorem test_decode_rxClr : decode (.command 0b1100_0000_0000_0000_0000) = .ok .rxClr := by decide
theorem test_decode_lineRx : decode (.lineByte 0b0011_1000) = .ok (.lineRx 0x38) := by decide
theorem test_decode_lineTmo : decode .lineStrobe = .ok .lineTmo := by decide

/-- V-CMD: one reserved bit set, in shapes NONE and IMM8. -/
theorem test_decode_reserved_bits :
    decode (.command 0x20001) = .error (.reservedBits 0x2 0x0001) ∧
    decode (.command 0x78000) = .error (.reservedBits 0x7 0x8000) ∧
    decode (.command 0x6FF00) = .error (.reservedBits 0x6 0xFF00) := by decide

/-- V-CMD: reserved operation codes. -/
theorem test_decode_reserved_ops :
    decode (.command 0xD0000) = .error (.reservedOp 0xD) ∧ decode (.command 0xFFFFF) = .error (.reservedOp 0xF) := by decide

/-- V-CMD: a refused word is answered `(IllegalOp, 0)` = 0x90000. -/
theorem test_step_answers_illegal :
    afterwards (·.responses) (step (presenting (.command 0xE1234))) = some [0x90000] := by decide

/-- 60_exceptions.md R116: the code of each name. -/
theorem test_status_codes : Status.code .ok = 0 ∧ Status.code .paramsTooLong = 1 ∧ Status.code .shortAnswer = 2 ∧
    Status.code .crcInvalid = 3 ∧ Status.code .timeout = 4 ∧ Status.code .truncated = 5 ∧ Status.code .overrun = 6 ∧
    Status.code .notReady = 7 ∧ Status.code .txEmpty = 8 ∧ Status.code .illegalOp = 9 := by decide

theorem test_decodeTableWord : decodeTableWord 20 0xB0001 = some (.rxRd 1) ∧ decodeTableWord 24 0xB0001 = some (.rxRd 1) ∧
    decodeTableWord 8 0x02 = some (.lineRx 0x02) ∧ decodeTableWord 0 0 = some .lineTmo ∧
    decodeTableWord 24 0xD0000 = none := by decide

/-- The first step after reset runs the presented word (P1: CRC.UPD 0x05). -/
theorem test_withFetchWord : afterwards (fun t => (t.crc, t.responses)) (step (State.reset.withFetchWord 24 0x10005)) =
    some (0xB155, [0x00000]) := by decide

/-! ## CRC engine -/

/-- V-CMD: CRC.LOAD 0. -/
theorem test_crcLoad : afterwards (·.crc) (exec (.crcLoad 0x0000) State.reset) = some 0x0000 := by decide

/-- V-CRC, single steps: `crc_step(0x8000, 0x00) = 0x9188`. -/
theorem test_crcUpd : afterwards (·.crc) (exec (.crcUpd 0x00) { State.reset with crc := 0x8000 }) = some 0x9188 := by decide

/-- V-CRC, single steps: `crc_step(DDF3, AB) = ED51`. -/
theorem test_crcUpd_source_row : afterwards (·.crc) (exec (.crcUpd 0xAB) { State.reset with crc := 0xDDF3 }) = some 0xED51 := by
  decide

/-- P1: CRC.RD answers 0x03885. -/
theorem test_crcRd : answers .crcRd { State.reset with crc := 0x3885 } = some [0x03885] := by decide

/-- 40_crc.md R71: the check value of "123456789" is 0x29B1. -/
theorem test_crc16_check_value :
    crc16 [0x31, 0x32, 0x33, 0x34, 0x35, 0x36, 0x37, 0x38, 0x39] 0xFFFF = 0x29B1 := by decide

/-! ## Hex units -/

/-- V-HEX: HEX.ENC 0xA5 is (OK, 0x4135). -/
theorem test_hexEnc : answers (.hexEnc 0xA5) State.reset = some [0x04135] := by decide

/-- 41_hex.md R75: `9` is the last digit, `A` the first letter. -/
theorem test_hexEnc_boundary : answers (.hexEnc 0x9A) State.reset = some [0x03941] := by decide

/-- V-HEX: HEX.DEC '9','A' is (OK, 0x009A). -/
theorem test_hexDec : answers (.hexDec 0x39 0x41) State.reset = some [0x0009A] := by decide

/-- V-HEX: HEX.DEC 'F','0' is (OK, 0x00F0). -/
theorem test_hexDec_high : answers (.hexDec 0x46 0x30) State.reset = some [0x000F0] := by decide

/-! ## TX framer -/

theorem test_txClr : afterwards (fun t => (t.txLen, t.txOvf, t.responses)) (exec .txClr (txWith 195 true)) =
    some (0, false, [0x00000]) := by decide

/-- V-TX limits: the 195th byte is taken at index 194. -/
theorem test_txPut_last : afterwards (fun t => (t.txLen, t.txBuf.read 194, t.responses)) (exec (.txPut 0xC1) (txWith 194 false)) =
    some (195, some 0xC1, [0x00000]) := by decide

/-- V-TX limits: the 196th is not. -/
theorem test_txPut_full : afterwards (fun t => (t.txLen, t.txOvf, t.responses)) (exec (.txPut 0x77) (txWith 195 false)) =
    some (195, true, [0x10000]) := by decide

/-- V-TX row 1: the frame of `[05]`. -/
theorem test_txSend : afterwards (fun t => (t.txOut, t.txLen, t.responses)) (exec .txSend (txWith 1 false)) =
    some ([0x02, 0x30, 0x35, 0x35, 0x35, 0x42, 0x31, 0x03], 0, [0x00008]) := by decide

/-- P6: TX.SEND after an overflow. -/
theorem test_txSend_overflow : afterwards (fun t => (t.txOut, t.txOvf, t.responses)) (exec .txSend (txWith 195 true)) =
    some ([], false, [0x10000]) := by decide

/-- P6: TX.STAT is 0x001C3. -/
theorem test_txStat : answers .txStat (txWith 195 true) = some [0x001C3] := by decide

/-! ## RX deframer -/

/-- V-RX row RX7: RX.STAT is 0x0056. -/
theorem test_rxStat : answers .rxStat { inDone .truncated with rxPhase := true } = some [0x00056] := by decide

/-- V-RX row RX16: RX.STAT is 0x006A. -/
theorem test_rxStat_overrun : answers .rxStat { inDone .overrun with rxOvf := true } = some [0x0006A] := by decide

/-- V-RX row RX1: RX.LEN is (OK, 1). -/
theorem test_rxLen : answers .rxLen afterRx1 = some [0x00001] := by decide

/-- V-RX row RX12: RX.LEN is (Timeout, 0). -/
theorem test_rxLen_verdict : answers .rxLen (inDone .timeout) = some [0x40000] := by decide

/-- V-RX row RX1: RX.RD 0 is (OK, 0x85). -/
theorem test_rxRd : answers (.rxRd 0) afterRx1 = some [0x00085] := by decide

/-- V-RX row RX1: RX.RD 1 is (ShortAnswer, 0). -/
theorem test_rxRd_short : answers (.rxRd 1) afterRx1 = some [0x20000] := by decide

/-- P4: RX.CLR then HUNT. -/
theorem test_rxClr : afterwards (fun t => (t.rxState, t.rxLen, t.responses)) (exec .rxClr afterRx1) =
    some (.hunt, 0, [0x00000]) := by decide

/-- RX1 step by step: after `38`, `RX_NIB = 8`, `RX_PHASE = 1`. -/
theorem test_lineRx_first_nibble : afterwards (fun t => (t.rxNib, t.rxPhase)) (exec (.lineRx 0x38) (inBody 0 false false)) =
    some (0x8, true) := by decide

/-- RX1 step by step: after `03` the verdict is OK. -/
theorem test_lineRx_etx : afterwards (fun t => (t.rxState, t.rxVerdict)) (exec (.lineRx 0x03) (inBody 3 false false)) =
    some (.done, .ok) := by decide

/-- V-RX row RX13: a timeout inside a frame. -/
theorem test_lineTmo : afterwards (fun t => (t.rxState, t.rxVerdict, t.rxLen)) (exec .lineTmo (inBody 1 true false)) =
    some (.done, .timeout, 0) := by decide

/-- V-RX row RX14: a timeout after a frame is discarded. -/
theorem test_lineTmo_done : exec .lineTmo afterRx1 = .next afterRx1 := rfl

/-! ## Witnesses: what meets the hypotheses of each statement -/

theorem witness_DecodeOfEncodeIsTheInstruction : (Instr.rxRd 65535).wellFormed = true := by decide

theorem witness_EncodeOfDecodedWordIsTheWord : decode (.command 0xBFFFF) = .ok (.rxRd 65535) := by decide

theorem no_instruction_0x10100 : ¬ ∃ i, decode (.command 0x10100) = .ok i := by
  rintro ⟨i, h⟩
  have e : decode (.command 0x10100) = .error (.reservedBits 0x1 0x0100) := by decide
  rw [e] at h
  cases h

theorem witness_WordIsLegalExactlyWhenOneRowMatches : decode (.command 0x100FF) = .ok (.crcUpd 0xFF) ∧
    (presenting (.command 0x10100)).presents (.command 0x10100) [] ∧ ¬ ∃ i, decode (.command 0x10100) = .ok i :=
  ⟨by decide, rfl, no_instruction_0x10100⟩

theorem witness_ReservedOpcodesAnswerIllegalOp : 0xD ≤ (0xD : BitVec 4).toNat ∧
    (presenting (.command ((0xD : BitVec 4) ++ (0 : Half)))).presents (.command ((0xD : BitVec 4) ++ (0 : Half))) [] :=
  ⟨by decide, rfl⟩

theorem witness_StepRunsTheDecodedInstruction : (presenting (.command 0x60077)).presents (.command 0x60077) [] ∧
    decode (.command 0x60077) = .ok (.txPut 0x77) := ⟨rfl, by decide⟩

theorem witness_NothingPresentedNothingHappens : State.reset.inputs = [] := rfl

/-- The invariants hold with an operation presented, in HUNT and in BODY. -/
theorem invariants_presenting (p : PortWord) : Invariants (presenting p) where
  txLen_le := Nat.zero_le _
  txOvf_full := fun h => nomatch h
  rxLen_le := Nat.zero_le _
  hunt_clear := fun _ => ⟨rfl, rfl, rfl, rfl⟩
  body_verdict := fun h => nomatch h
  rxOvf_full := fun h => nomatch h
  done_ok := fun h => nomatch h
  done_timeout := fun h => nomatch h
  tx_written := fun a h => absurd h (Nat.not_lt_zero a)
  rx_written := fun a h => absurd h (Nat.not_lt_zero a)
  verdict_legal := List.mem_cons_self
  txBuf_wf := Memory.wf_nil _
  rxBuf_wf := Memory.wf_nil _

theorem invariants_body_presenting (p : PortWord) : Invariants { presenting p with rxState := .body } where
  txLen_le := Nat.zero_le _
  txOvf_full := fun h => nomatch h
  rxLen_le := Nat.zero_le _
  hunt_clear := fun h => nomatch h
  body_verdict := fun _ => rfl
  rxOvf_full := fun h => nomatch h
  done_ok := fun h => nomatch h
  done_timeout := fun h => nomatch h
  tx_written := fun a h => absurd h (Nat.not_lt_zero a)
  rx_written := fun a h => absurd h (Nat.not_lt_zero a)
  verdict_legal := List.mem_cons_self
  txBuf_wf := Memory.wf_nil _
  rxBuf_wf := Memory.wf_nil _

/-- A received frame meets the invariants, item 8 of 10_state.md R24 among them. -/
theorem invariants_afterRx1 : Invariants afterRx1 where
  txLen_le := Nat.zero_le _
  txOvf_full := fun h => nomatch h
  rxLen_le := Config.rxBufBytes_bounds.1
  hunt_clear := fun h => nomatch h
  body_verdict := fun h => nomatch h
  rxOvf_full := fun h => nomatch h
  done_ok := fun _ _ => ⟨by decide, rfl, rfl, [0x85], 0xDD, 0x20, rfl, rfl, rfl, by decide⟩
  done_timeout := fun _ h => nomatch h
  tx_written := fun a h => absurd h (Nat.not_lt_zero a)
  rx_written := by decide
  verdict_legal := List.mem_cons_self
  txBuf_wf := Memory.wf_nil _
  rxBuf_wf := ⟨by decide, fun c hc => by
    have hb := Config.rxBufBytes_bounds.1
    have h3 : ∀ c ∈ rx1Bytes, c.1 < 3 := by decide
    exact Nat.lt_of_lt_of_le (h3 c hc) hb⟩

theorem witness_EveryCommandHasOneResponseWord :
    (Invariants (presenting (.command 0x50000)) ∧ (presenting (.command 0x50000)).presents (.command 0x50000) []) ∧
    (Invariants (presenting (.command 0xFFFFF)) ∧ (presenting (.command 0xFFFFF)).presents (.command 0xFFFFF) []) ∧
    (Invariants (presenting (.lineByte 0x02)) ∧ (presenting (.lineByte 0x02)).presents (.lineByte 0x02) []) ∧
    (Invariants (presenting .lineStrobe) ∧ (presenting .lineStrobe).presents .lineStrobe []) :=
  ⟨⟨invariants_presenting _, rfl⟩, ⟨invariants_presenting _, rfl⟩, ⟨invariants_presenting _, rfl⟩,
    invariants_presenting _, rfl⟩

theorem witness_StatusesOfEachOperation :
    (Invariants (presenting (.command 0xA0000)) ∧ (presenting (.command 0xA0000)).presents (.command 0xA0000) []) ∧
    (∃ t, Invariants { presenting (.lineByte 0x03) with rxState := .body } ∧
      step { presenting (.lineByte 0x03) with rxState := .body } = .next t ∧ t.rxVerdict ≠ .ok) ∧
    (∃ t, Invariants (presenting .lineStrobe) ∧ step (presenting .lineStrobe) = .next t ∧ t.rxVerdict ≠ .ok) :=
  ⟨⟨invariants_presenting _, rfl⟩, ⟨_, invariants_body_presenting _, rfl, by decide⟩,
    ⟨_, invariants_presenting _, rfl, by decide⟩⟩

/-- What the command port clauses of the statements about one command assume is met for every `op` and `arg`: CrcLoadWritesCrc,
CrcUpdStepsCrc, CrcRdReturnsCrc, HexEncReturnsTwoCharacters, HexDecReturnsTheByte, TxClrEmptiesTheBuffer, TxPutAppendsOrRefuses,
TxSendEmitsTheFrame, TxStatReturnsOvfAndLen, RxStatReturnsTheStatusFields, RxLenCountsTheBody, RxRdReturnsOneBodyByte,
RxClrReleasesTheReceiver. -/
theorem witness_commandPort (op : BitVec 4) (arg : Half) :
    (presenting (.command (op ++ arg))).presents (.command (op ++ arg)) [] := rfl

theorem witness_CrcPseudoOperationReturnsTheChecksum :
    ({ State.reset with inputs := presented [.crcLoad 0xFFFF, .crcUpd 0x05, .crcRd] }).inputs =
      presented (.crcLoad 0xFFFF :: [0x05].map .crcUpd ++ [.crcRd]) ++ [] := rfl

theorem witness_OneChangedByteChangesTheChecksum : (0x41 : Byte) ≠ 0x42 := by decide

theorem witness_NibbleFunctionsFollowTheirTables :
    (0x30 ≤ (0x30 : Byte).toNat ∧ (0x39 : Byte).toNat ≤ 0x39) ∧ (0x41 ≤ (0x41 : Byte).toNat ∧ (0x46 : Byte).toNat ≤ 0x46) ∧
    ¬ isHexChar 0x2F ∧ ¬ isHexChar 0x3A ∧ ¬ isHexChar 0x40 ∧ ¬ isHexChar 0x47 ∧ ¬ isHexChar 0x61 := by
  unfold isHexChar
  decide

theorem witness_HexRoundTrip : hexToBytes [0x38, 0x35] = some [0x85] ∧ ∀ c ∈ [(0x38 : Byte), 0x35], isHexChar c := by
  unfold isHexChar
  decide

theorem witness_TxPutAppendsOrRefuses : (txWith 194 false).txLen.toNat < 195 ∧ 195 ≤ (txWith 195 false).txLen.toNat := by decide

theorem witness_TxSendEmitsTheFrame : (txWith 195 true).txOvf = true ∧
    ((txWith 0 false).txOvf = false ∧ (txWith 0 false).txLen = 0) ∧
    ((txWith 2 false).txOvf = false ∧ [(0x05 : Byte), 0x00] ≠ [] ∧
      (txWith 2 false).txBuf.readPrefix (txWith 2 false).txLen.toNat = .ok [0x05, 0x00]) :=
  ⟨rfl, ⟨rfl, rfl⟩, rfl, by decide, rfl⟩

theorem witness_FrameLayoutByPosition : [(0x85 : Byte)] ≠ [] ∧ 0 < [(0x85 : Byte)].length := by decide

theorem witness_EveryFrameIsWellFormed : [(0x85 : Byte)] ≠ [] := by decide

theorem witness_TxOutGrowsOnlyByWholeFrames :
    (∃ t, step { txWith 1 false with inputs := [.op (.command 0x70000)] } = .next t ∧ t.txOut ≠ []) ∧
    (∃ t, step { State.reset with inputs := [.reset], txOut := [0x02] } = .next t ∧ t.txOut = []) :=
  ⟨⟨_, rfl, by decide⟩, ⟨_, rfl, rfl⟩⟩

/-- TX.FRAME of opcode 0x06 with the longest parameters. -/
def longestRequest : List Input :=
  presented (Instr.txClr :: Instr.txPut 0x06 :: (List.replicate 194 0x00).map Instr.txPut ++ [Instr.txSend])

theorem witness_TxFramePseudoOperationSendsTheFrame : (List.replicate 194 (0x00 : Byte)).length ≤ 194 ∧
    ({ State.reset with inputs := longestRequest } : State).inputs =
      presented (Instr.txClr :: Instr.txPut 0x06 :: (List.replicate 194 0x00).map Instr.txPut ++ [Instr.txSend]) ++ [] :=
  ⟨Nat.le_of_eq List.length_replicate, (List.append_nil _).symm⟩

theorem witness_LineRxInHuntWaitsForStx : State.reset.rxState = .hunt ∧ (0x03 : Byte) ≠ 0x02 := by decide

theorem witness_LineRxStxInBodyRestartsTheFrame : (inBody 2 true false).rxState = .body := rfl

theorem witness_LineRxEtxInBodyLatchesTheVerdict :
    ((inBody 3 false true).rxState = .body ∧ (inBody 3 false true).rxOvf = true) ∧
    ((inBody 2 false false).rxState = .body ∧ (inBody 2 false false).rxOvf = false ∧ (inBody 2 false false).rxLen.toNat < 3) ∧
    ((inBody 3 true false).rxState = .body ∧ (inBody 3 true false).rxOvf = false ∧ (inBody 3 true false).rxPhase = true) ∧
    ((inBody 3 false false).rxState = .body ∧ (inBody 3 false false).rxOvf = false ∧ (inBody 3 false false).rxPhase = false ∧
      [(0x85 : Byte)] ≠ [] ∧
      (inBody 3 false false).rxBuf.readPrefix (inBody 3 false false).rxLen.toNat = .ok ([0x85] ++ [0xDD, 0x20])) :=
  ⟨⟨rfl, rfl⟩, ⟨rfl, rfl, by decide⟩, ⟨rfl, rfl, rfl⟩, rfl, rfl, rfl, by decide, rfl⟩

theorem witness_LineRxCharacterFormsBytes :
    ((inBody 0 false false).rxState = .body ∧ (0x01 : Byte) ≠ 0x02 ∧ (0x04 : Byte) ≠ 0x03 ∧ (inBody 0 false false).rxPhase = false) ∧
    ((inBody 2 true false).rxState = .body ∧ (inBody 2 true false).rxPhase = true ∧
      (inBody 2 true false).rxLen.toNat < Config.rxBufBytes) ∧
    (rxFull.rxState = .body ∧ rxFull.rxPhase = true ∧ Config.rxBufBytes ≤ rxFull.rxLen.toNat) :=
  ⟨⟨rfl, by decide, by decide, rfl⟩, ⟨rfl, rfl, Config.rxBufBytes_bounds.1⟩, rfl, rfl, Nat.le_of_eq rxFull_len.symm⟩

theorem witness_LineRxInDoneIsDiscarded : afterRx1.rxState = .done := rfl

theorem witness_LineTmoDiscardsAPartialFrame : (State.reset.rxState = .hunt ∨ State.reset.rxState = .body) ∧
    ((inBody 1 true false).rxState = .hunt ∨ (inBody 1 true false).rxState = .body) ∧ afterRx1.rxState = .done := by decide

theorem witness_RxLenCountsTheBody : State.reset.rxState ≠ .done ∧ (inBody 3 false false).rxState ≠ .done ∧
    ((inDone .crcInvalid).rxState = .done ∧ (inDone .crcInvalid).rxVerdict ≠ .ok) ∧
    (afterRx1.rxState = .done ∧ afterRx1.rxVerdict = .ok ∧ 2 ≤ afterRx1.rxLen.toNat) ∧
    ({ afterRx1 with rxLen := 2 } : State).rxLen.toNat = 2 := by decide

theorem witness_RxRdReturnsOneBodyByte : State.reset.rxState ≠ .done ∧
    ((inDone .overrun).rxState = .done ∧ (inDone .overrun).rxVerdict ≠ .ok) ∧
    (afterRx1.rxState = .done ∧ afterRx1.rxVerdict = .ok ∧ afterRx1.rxLen.toNat ≤ 1 + 2) ∧
    (0 + 2 < afterRx1.rxLen.toNat ∧ afterRx1.rxBuf.read 0 = some 0x85) := by decide

theorem witness_RxStateFollowsTheTable : ∃ t, exec (.lineRx 0x03) (inBody 3 false false) = .next t := ⟨_, rfl⟩

theorem witness_SentFrameIsReceivedUnchanged : [(0x85 : Byte)] ≠ [] ∧ [(0x85 : Byte)].length ≤ 195 ∧
    [(0x85 : Byte)].length + 2 ≤ Config.rxBufBytes ∧
    ({ State.reset with inputs := lineString (frameBytes [0x85]) }).rxState = .hunt ∧
    ({ State.reset with inputs := lineString (frameBytes [0x85]) }).inputs = lineString (frameBytes [0x85]) ++ [] :=
  ⟨by decide, by decide, Config.rxBufBytes_bounds.1, rfl, (List.append_nil _).symm⟩

/-- V-RX row RX4 changes a later character; here the first one, `38`, turns into `30`. -/
theorem witness_ChangedCharacterIsCrcInvalid : [(0x85 : Byte)] ≠ [] ∧ [(0x85 : Byte)].length ≤ 195 ∧
    [(0x85 : Byte)].length + 2 ≤ Config.rxBufBytes ∧
    ({ State.reset with inputs := lineString ((frameBytes [0x85]).set 1 0x30) }).rxState = .hunt ∧
    1 ≤ 1 ∧ 1 + 1 < (frameBytes [0x85]).length ∧ isHexChar 0x30 ∧ (frameBytes [0x85])[1]? ≠ some 0x30 ∧
    ({ State.reset with inputs := lineString ((frameBytes [0x85]).set 1 0x30) }).inputs =
      lineString ((frameBytes [0x85]).set 1 0x30) ++ [] :=
  ⟨by decide, by decide, Config.rxBufBytes_bounds.1, rfl, by decide, by decide, .inl (by decide), by decide,
    (List.append_nil _).symm⟩

theorem witness_ResetStepGivesTheResetValues : ({ afterRx1 with inputs := [.reset] } : State).inputs = .reset :: [] := rfl

theorem witness_ResetLeavesOnlyWhatTheEnvironmentHolds :
    ({ afterRx1 with inputs := [.reset, .reset] } : State).inputs = .reset :: [.reset] := rfl

theorem witness_EveryStepKeepsTheInvariants : Invariants State.reset ∧ Invariants afterRx1 ∧
    ∃ t, Invariants { presenting (.lineByte 0x03) with rxState := .body } ∧
      step { presenting (.lineByte 0x03) with rxState := .body } = .next t :=
  ⟨{ invariants_presenting .lineStrobe with }, invariants_afterRx1, _, invariants_body_presenting _, rfl⟩

theorem witness_NoRunEverStops : Invariants (presenting (.command 0x70000)) := invariants_presenting _

/-- Two states that differ in `RX_NIB` and above the fill levels. -/
theorem witness_UnobservableContentsNeverShow :
    SameObservable afterRx1 { afterRx1 with rxNib := 0xF, rxBuf := rx1Bytes ++ [(3, 0xAA)], txBuf := [(0, 0x55)] } ∧
    runSteps 1 afterRx1 = .next afterRx1 where
  left :=
    { crc := rfl, txLen := rfl, txOvf := rfl, txOut := rfl, rxLen := rfl, rxState := rfl, rxPhase := rfl, rxOvf := rfl
      rxVerdict := rfl, inputs := rfl, responses := rfl
      txBuf := fun a h => absurd h (Nat.not_lt_zero a)
      rxBuf := by decide
      rxNib := fun h => nomatch h }
  right := (runSteps_succ_of_next (n := 0) rfl).trans rfl

theorem witness_NoUnitWritesAnothersState : ∃ t, exec (.txPut 0x77) (txWith 2 false) = .next t ∧ usesCrc (.txPut 0x77) = false ∧
    writesRx (.txPut 0x77) = false ∧ ofTx .rxClr = false := ⟨_, rfl, rfl, rfl, rfl⟩

theorem witness_OtherOperationsIgnoreTheCrcRegister : usesCrc .txSend = false := rfl

theorem witness_OtherOperationsIgnoreTheFramers : (ofTx (.lineRx 0x03) = false ∧ ofTx .rxStat = false) ∧
    (usesRx .txSend = false ∧ usesRx (.crcUpd 0x05) = false) ∧ (txWith 2 false).withRxOf afterRx1 ≠ txWith 2 false := by decide

theorem witness_BufferBytesChangeOnlyWhereStored :
    (∃ t, exec (.txPut 0x77) (txWith 194 false) = .next t ∧ (txWith 194 false).txLen.toNat < 195) ∧
    (∃ t, exec (.lineRx 0x30) (inBody 2 true false) = .next t) ∧
    ((0x30 : Byte) ≠ 0x02 ∧ (0x30 : Byte) ≠ 0x03 ∧ (inBody 2 true false).rxState = .body ∧ (inBody 2 true false).rxPhase = true ∧
      (inBody 2 true false).rxLen.toNat < Config.rxBufBytes) :=
  ⟨⟨_, rfl, by decide⟩, ⟨_, rfl⟩, by decide, by decide, rfl, rfl, Config.rxBufBytes_bounds.1⟩

theorem witness_RepeatedReadGivesTheSameResponse : (∀ i ∈ [Instr.txClr, .rxStat], writesRx i = false) ∧
    ∃ t u, exec (.rxRd 0) afterRx1 = .next t ∧ execAll [.txClr, .rxStat] t = .next u :=
  ⟨by decide, _, _, rfl, rfl⟩

theorem witness_TurnedAwayCommandsChangeNothing : ∃ t, (presenting (.command 0x70000)).presents (.command 0x70000) [] ∧
    step (presenting (.command 0x70000)) = .next t ∧ Status.txEmpty ∈ [Status.illegalOp, .shortAnswer, .notReady, .txEmpty] ∧
    t.responses = (presenting (.command 0x70000)).responses ++ [responseWord .txEmpty 0] :=
  ⟨_, rfl, rfl, by decide, rfl⟩

theorem witness_ClearsRestoreTheBehaviourAfterReset : ∃ u v, execAll [.txClr, .rxClr] afterRx1 = .next u ∧
    runSteps 0 u = .next v := ⟨_, _, rfl, rfl⟩

end Sys2Proof.Tests
end

/-! ## Encoding: which command words decode, and what they decode to (30_encoding.md R48 to R50) -/

namespace Sys2Proof

theorem commandWord_inj {op op' : BitVec 4} {arg arg' : Half} :
    commandWord op arg = commandWord op' arg' ↔ op = op' ∧ arg = arg' := by
  constructor
  · intro h
    exact ⟨by simpa using congrArg opOf h, by simpa using congrArg argOf h⟩
  · rintro ⟨rfl, rfl⟩
    rfl

/-! ### Reserved operation codes -/

theorem decodeCommand_of_reservedOp {w : Word20} (h : 0xD ≤ (opOf w).toNat) :
    decodeCommand w = .error (.reservedOp (opOf w)) := by
  unfold decodeCommand
  split
  case h_14 => rfl
  all_goals omega

/-! ### The rows of the code map -/

/-- The fields of the rows: the `match` is the row's `op` with `arg` 0, the mask is all of `op` and the reserved bits of
`arg` (none, the high byte, or all of them: the shapes of 30_encoding.md R47). -/
theorem commandRows_fields : commandRows =
    [ ("CRC.LOAD", commandWord 0x0 0, commandWord 0xF 0x0000), ("CRC.UPD", commandWord 0x1 0, commandWord 0xF 0xFF00)
    , ("CRC.RD", commandWord 0x2 0, commandWord 0xF 0xFFFF), ("HEX.ENC", commandWord 0x3 0, commandWord 0xF 0xFF00)
    , ("HEX.DEC", commandWord 0x4 0, commandWord 0xF 0x0000), ("TX.CLR", commandWord 0x5 0, commandWord 0xF 0xFFFF)
    , ("TX.PUT", commandWord 0x6 0, commandWord 0xF 0xFF00), ("TX.SEND", commandWord 0x7 0, commandWord 0xF 0xFFFF)
    , ("TX.STAT", commandWord 0x8 0, commandWord 0xF 0xFFFF), ("RX.STAT", commandWord 0x9 0, commandWord 0xF 0xFFFF)
    , ("RX.LEN", commandWord 0xA 0, commandWord 0xF 0xFFFF), ("RX.RD", commandWord 0xB 0, commandWord 0xF 0x0000)
    , ("RX.CLR", commandWord 0xC 0, commandWord 0xF 0xFFFF) ] := by decide

/-- A row selects the words of its `op` that have no bit in its reserved bits `m`. -/
theorem rowSelects_commandWord (name : String) (op op' : BitVec 4) (arg m : Half) :
    rowSelects (commandWord op arg) (name, commandWord op' 0, commandWord 0xF m) =
      decide (op = op' ∧ arg &&& m = 0) := by
  have hand : commandWord op arg &&& commandWord 0xF m = commandWord (op &&& 0xF) (arg &&& m) := BitVec.and_append
  have hop : op &&& 0xF = op := BitVec.and_allOnes
  rw [rowSelects, hand, hop, Bool.eq_iff_iff, beq_iff_eq, commandWord_inj, decide_eq_true_iff]

/-- No bit under the mask of shape IMM8 is a high byte of 0. -/
theorem and_highByte_eq_zero_iff (arg : Half) : arg &&& 0xFF00 = 0 ↔ hiByte arg = 0 := by
  have hand : arg &&& 0xFF00 = hiByte arg ++ (0 : Byte) := by
    have hbytes : (hiByte arg ++ loByte arg : Half) &&& ((0xFF : Byte) ++ (0 : Byte)) =
        (hiByte arg &&& 0xFF) ++ (loByte arg &&& 0) := BitVec.and_append
    have hhi : hiByte arg &&& 0xFF = hiByte arg := BitVec.and_allOnes
    have hlo : loByte arg &&& 0 = 0 := BitVec.and_zero
    rwa [append_bytes, hhi, hlo] at hbytes
  rw [hand]
  constructor
  · intro h
    exact (hiByte_append (hiByte arg) 0).symm.trans (congrArg hiByte h)
  · intro h
    rw [h]
    rfl

theorem toOption_decodeNone (w : Word20) (i : Instr) :
    (decodeNone w i).toOption = if argOf w = 0 then some i else none :=
  apply_ite Except.toOption _ _ _

theorem toOption_decodeImm8 (w : Word20) (f : Byte → Instr) :
    (decodeImm8 w f).toOption = if hiByte (argOf w) = 0 then some (f (loByte (argOf w))) else none :=
  apply_ite Except.toOption _ _ _

theorem isOk_eq_isSome_toOption {ε α : Type} (e : Except ε α) : e.isOk = e.toOption.isSome := by
  cases e <;> rfl

@[simp] theorem toOption_ok {ε α : Type} (a : α) : (Except.ok a : Except ε α).toOption = some a := rfl

@[simp] theorem toOption_error {ε α : Type} (e : ε) : (Except.error e : Except ε α).toOption = none := rfl

/-- The rows a word selects are named as what it decodes to, if it decodes: one row or none. Rows have different `op`s, so
what remains for each `op` is that its row and its decoding ask the same of the reserved bits of `arg`. -/
theorem selected_names (w : Word20) :
    (commandRows.filter (rowSelects w)).map (fun row => row.1) =
      (decodeCommand w).toOption.toList.map Instr.mnemonic := by
  obtain ⟨op, arg, rfl⟩ : ∃ op arg, w = commandWord op arg := ⟨_, _, (commandWord_fields w).symm⟩
  have hall : arg &&& 0xFFFF = arg := BitVec.and_allOnes
  simp only [commandRows_fields, List.filter_cons, List.filter_nil, rowSelects_commandWord, hall,
    and_highByte_eq_zero_iff, decodeCommand, opOf_commandWord]
  obtain ⟨n, hn⟩ := op
  interval_cases n <;>
    simp [toOption_decodeNone, toOption_decodeImm8, apply_ite Option.toList, apply_ite (List.map _), Instr.mnemonic]

theorem exists_decodeCommand_eq_ok_iff (w : Word20) :
    (∃ i, decodeCommand w = .ok i) ↔ ∃ row, commandRows.filter (rowSelects w) = [row] := by
  have hlength := congrArg List.length (selected_names w)
  rw [List.length_map, List.length_map] at hlength
  rw [← List.length_eq_one_iff, hlength]
  cases decodeCommand w <;> simp

/-! ### How many words are legal -/

/-- How many values of `arg` are legal for an `op`; they are those below it (30_encoding.md R47). -/
def legalArgs (op : BitVec 4) : Nat :=
  match op.toNat with
  | 0x0 | 0x4 | 0xB => 65536
  | 0x1 | 0x3 | 0x6 => 256
  | 0xD | 0xE | 0xF => 0
  | _ => 1

theorem hiByte_eq_zero_iff (v : Half) : hiByte v = 0#8 ↔ v.toNat < 256 := by
  have hv : v.toNat < 65536 := v.isLt
  rw [← BitVec.toNat_inj, hiByte, BitVec.extractLsb'_toNat, Nat.shiftRight_eq_div_pow]
  show v.toNat / 256 % 256 = 0 ↔ _
  omega

theorem half_eq_zero_iff (v : Half) : v = 0#16 ↔ v.toNat = 0 := BitVec.toNat_inj.symm

theorem isOk_decodeCommand (op : BitVec 4) (arg : Half) :
    (decodeCommand (commandWord op arg)).isOk = decide (arg.toNat < legalArgs op) := by
  have harg : arg.toNat < 65536 := arg.isLt
  rw [isOk_eq_isSome_toOption, decodeCommand, opOf_commandWord]
  obtain ⟨n, hn⟩ := op
  interval_cases n <;>
    simp [toOption_decodeNone, toOption_decodeImm8, apply_ite Option.isSome, legalArgs, hiByte_eq_zero_iff,
      half_eq_zero_iff, harg]

theorem ofNat_eq_commandWord (j : Nat) {r : Nat} (hr : r < 65536) :
    BitVec.ofNat 20 (65536 * j + r) = commandWord (BitVec.ofNat 4 j) (BitVec.ofNat 16 r) := by
  apply BitVec.eq_of_toNat_eq
  rw [commandWord, BitVec.toNat_append, ← Nat.shiftLeft_add_eq_or_of_lt (BitVec.isLt _), Nat.shiftLeft_eq]
  simp only [BitVec.toNat_ofNat]
  omega

theorem countP_range_lt {a b : Nat} (h : a ≤ b) : (List.range b).countP (fun r => decide (r < a)) = a := by
  obtain ⟨c, rfl⟩ := Nat.exists_eq_add_of_le h
  have hlow : (List.range a).countP (fun r => decide (r < a)) = a := by
    rw [List.countP_eq_length.mpr (by simp), List.length_range]
  have hhigh : ((List.range c).map (a + ·)).countP (fun r => decide (r < a)) = 0 := by
    rw [List.countP_eq_zero]
    simp
  rw [List.range_add, List.countP_append, hlow, hhigh, Nat.add_zero]

/-- Counting below `m * k` block by block. -/
theorem countP_range_mul (p : Nat → Bool) (m k : Nat) :
    (List.range (m * k)).countP p = ((List.range k).map fun j => (List.range m).countP fun r => p (m * j + r)).sum := by
  induction k with
  | zero => rfl
  | succ k ih =>
    rw [Nat.mul_succ, List.range_add, List.countP_append, List.countP_map, ih, List.range_succ]
    simp [Function.comp_def]

theorem legalArgs_le (op : BitVec 4) : legalArgs op ≤ 65536 := by
  unfold legalArgs
  split <;> omega

/-- Of the words of one `op`, as many are legal as the values of `arg`. -/
theorem countP_legal_words_of_op (j : Nat) :
    (List.range 65536).countP (fun r => (decodeCommand (BitVec.ofNat 20 (65536 * j + r))).isOk) =
      legalArgs (BitVec.ofNat 4 j) := by
  rw [← countP_range_lt (legalArgs_le _)]
  refine List.countP_congr fun r hr => ?_
  have hr' : r < 65536 := List.mem_range.mp hr
  rw [ofNat_eq_commandWord j hr', isOk_decodeCommand, BitVec.toNat_ofNat, Nat.mod_eq_of_lt hr']

theorem countP_legal_words : (List.range 1048576).countP (fun n => (decodeCommand (BitVec.ofNat 20 n)).isOk) =
    3 * 65536 + 3 * 256 + 7 := by
  have hblocks := countP_range_mul (fun n => (decodeCommand (BitVec.ofNat 20 n)).isOk) 65536 16
  simp only [countP_legal_words_of_op] at hblocks
  exact hblocks.trans (by decide)

/-! ### What a decoded word encodes to -/

theorem decodeNone_eq_ok {w : Word20} {i j : Instr} (h : decodeNone w i = .ok j) : argOf w = 0 ∧ i = j := by
  unfold decodeNone at h
  split at h
  case isTrue harg => exact ⟨harg, Except.ok.inj h⟩
  case isFalse => cases h

theorem decodeImm8_eq_ok {w : Word20} {f : Byte → Instr} {j : Instr} (h : decodeImm8 w f = .ok j) :
    hiByte (argOf w) = 0 ∧ f (loByte (argOf w)) = j := by
  unfold decodeImm8 at h
  split at h
  case isTrue harg => exact ⟨harg, Except.ok.inj h⟩
  case isFalse => cases h

/-- A 16-bit value with a high byte of 0 is the `arg` of its low byte. -/
theorem imm8Arg_loByte {v : Half} (h : hiByte v = 0) : imm8Arg (loByte v) = v := by
  rw [← append_bytes (imm8Arg (loByte v)), hiByte_imm8Arg, loByte_imm8Arg, ← h, append_bytes]

theorem command_of_fields {w : Word20} {op : BitVec 4} {arg : Half} (hop : (opOf w).toNat = op.toNat)
    (harg : argOf w = arg) : PortWord.command (commandWord op arg) = .command w := by
  rw [← BitVec.eq_of_toNat_eq hop, ← harg, commandWord_fields]

theorem encode_of_decodeNone {w : Word20} {i j : Instr} (op : BitVec 4) (hop : (opOf w).toNat = op.toNat)
    (hi : encode i = .command (commandWord op 0)) (h : decodeNone w i = .ok j) : encode j = .command w := by
  obtain ⟨harg, rfl⟩ := decodeNone_eq_ok h
  exact hi.trans (command_of_fields hop harg)

theorem encode_of_decodeImm8 {w : Word20} {f : Byte → Instr} {j : Instr} (op : BitVec 4)
    (hop : (opOf w).toNat = op.toNat) (hf : ∀ b, encode (f b) = .command (commandWord op (imm8Arg b)))
    (h : decodeImm8 w f = .ok j) : encode j = .command w := by
  obtain ⟨harg, rfl⟩ := decodeImm8_eq_ok h
  exact (hf _).trans (command_of_fields hop (imm8Arg_loByte harg).symm)

/-- A command word is the encoding of the instruction it decodes to. -/
theorem encode_of_decodeCommand {w : Word20} {i : Instr} (h : decodeCommand w = .ok i) : encode i = .command w := by
  unfold decodeCommand at h
  split at h
  case h_1 hop => cases h; exact command_of_fields hop rfl
  case h_2 hop => exact encode_of_decodeImm8 0x1 hop (fun _ => rfl) h
  case h_3 hop => exact encode_of_decodeNone 0x2 hop rfl h
  case h_4 hop => exact encode_of_decodeImm8 0x3 hop (fun _ => rfl) h
  case h_5 hop => cases h; exact command_of_fields hop (append_bytes _).symm
  case h_6 hop => exact encode_of_decodeNone 0x5 hop rfl h
  case h_7 hop => exact encode_of_decodeImm8 0x6 hop (fun _ => rfl) h
  case h_8 hop => exact encode_of_decodeNone 0x7 hop rfl h
  case h_9 hop => exact encode_of_decodeNone 0x8 hop rfl h
  case h_10 hop => exact encode_of_decodeNone 0x9 hop rfl h
  case h_11 hop => exact encode_of_decodeNone 0xA hop rfl h
  case h_12 hop => cases h; exact command_of_fields hop (by simp)
  case h_13 hop => exact encode_of_decodeNone 0xC hop rfl h
  case h_14 => cases h

end Sys2Proof

namespace Sys2Proof.Machine

/-! ### The step on what is presented -/

theorem step_of_decode_ok {p : PortWord} {i : Instr} {s : State} {rest : List Input} (hp : s.presents p rest)
    (h : decode p = .ok i) : step s = exec i { s with inputs := rest } := by
  simp only [step, takeInput_cons hp, h]

theorem step_of_decode_error {p : PortWord} {e : DecodeError} {s : State} {rest : List Input} (hp : s.presents p rest)
    (h : decode p = .error e) : step s = .next (respond .illegalOp 0 { s with inputs := rest }) := by
  simp only [step, takeInput_cons hp, h, answerIllegal_eq]

/-- Settles O5: a reserved `op` does not decode. -/
theorem reservedOpcodesAnswerIllegalOp : Obligations.ReservedOpcodesAnswerIllegalOp := by
  unfold Obligations.ReservedOpcodesAnswerIllegalOp
  intro op arg s rest hop hp
  have hop' : 0xD ≤ (opOf (commandWord op arg)).toNat := by rwa [opOf_commandWord]
  exact step_of_decode_error hp (decodeCommand_of_reservedOp hop')

/-- Settles O4: the rows a word selects are named as what it decodes to, so there is one such row or none; the legal words
are counted `op` by `op`. -/
theorem wordIsLegalExactlyWhenOneRowMatches : Obligations.WordIsLegalExactlyWhenOneRowMatches := by
  unfold Obligations.WordIsLegalExactlyWhenOneRowMatches
  refine ⟨exists_decodeCommand_eq_ok_iff, fun w i h => ?_, countP_legal_words, fun w s rest hp hno => ?_⟩
  · have h' : decodeCommand w = .ok i := h
    rw [selected_names, h']
    rfl
  · cases h : decode (.command w) with
    | ok i => exact absurd ⟨i, h⟩ hno
    | error e => exact step_of_decode_error hp h

/-! ## Responses: every command has one (30_encoding.md R46) -/

/-- `o` is a next state with one response word more than `s`, whose result is 0 when the status is not OK, and 0 also if
`noResult`. -/
def AnswersOnce (s : State) (noResult : Prop) (o : Host.Outcome State Fault Refusal) : Prop :=
  ∃ t st res, o = .next t ∧ t.responses = s.responses ++ [responseWord st res] ∧ (st ≠ .ok → res = 0) ∧
    (noResult → res = 0)

theorem answersOnce_complete {s s' : State} {noResult : Prop} {res : Half} (h : s'.responses = s.responses)
    (hres : noResult → res = 0) : AnswersOnce s noResult (complete res s') :=
  ⟨_, .ok, res, complete_eq res s', by rw [respond_responses, h], fun hst => absurd rfl hst, hres⟩

theorem answersOnce_raise {s s' : State} {noResult : Prop} {st : Status} (h : s'.responses = s.responses) :
    AnswersOnce s noResult (raise st s') :=
  ⟨_, st, 0, raise_eq st s', by rw [respond_responses, h], fun _ => rfl, fun _ => rfl⟩

theorem execTxPut_answersOnce (b : Byte) (s : State) (noResult : Prop) :
    AnswersOnce s noResult (execTxPut b s) := by
  unfold execTxPut
  split
  · exact answersOnce_complete rfl fun _ => rfl
  · exact answersOnce_raise rfl

theorem execTxSend_answersOnce {s : State} {noResult : Prop} (htx : ∀ a < s.txLen.toNat, s.txBuf.written a)
    (hres : ¬ noResult) : AnswersOnce s noResult (execTxSend s) := by
  obtain ⟨body, hbody⟩ := Memory.readPrefix_of_written htx
  unfold execTxSend
  split
  · exact answersOnce_raise rfl
  · split
    · exact answersOnce_raise rfl
    · rw [hbody]
      exact answersOnce_complete rfl fun h => absurd h hres

theorem execRxLen_answersOnce {s : State} {noResult : Prop} (hres : ¬ noResult) :
    AnswersOnce s noResult (execRxLen s) := by
  unfold execRxLen
  split
  · exact answersOnce_raise rfl
  · split
    · exact answersOnce_raise rfl
    · exact answersOnce_complete rfl fun h => absurd h hres

theorem execRxRd_answersOnce {s : State} {noResult : Prop} (idx : Nat)
    (hrx : ∀ a < s.rxLen.toNat, s.rxBuf.written a) (hres : ¬ noResult) :
    AnswersOnce s noResult (execRxRd idx s) := by
  unfold execRxRd
  split
  · exact answersOnce_raise rfl
  · split
    · exact answersOnce_raise rfl
    · split
      · exact answersOnce_raise rfl
      · next hidx =>
        have hlt : idx < s.rxLen.toNat := by
          unfold bodyLen at hidx
          omega
        obtain ⟨b, hb⟩ := Option.isSome_iff_exists.mp (hrx idx hlt)
        rw [hb]
        exact answersOnce_complete rfl fun h => absurd h hres

/-- The operation codes of the commands that return nothing: CRC.LOAD, CRC.UPD, TX.CLR, TX.PUT, RX.CLR. -/
def ReturnsNothing (w : Word20) : Prop := (opOf w).toNat ∈ [0x0, 0x1, 0x5, 0x6, 0xC]

theorem not_returnsNothing {op : BitVec 4} {arg : Half} (h : op.toNat ∉ [0x0, 0x1, 0x5, 0x6, 0xC]) :
    ¬ ReturnsNothing (commandWord op arg) := by
  rwa [ReturnsNothing, opOf_commandWord]

/-- A command, unlike a line event, is answered; only TX.SEND and RX.RD need what they read to be written. -/
theorem exec_command_answersOnce {i : Instr} {w : Word20} {s : State} (hi : encode i = .command w)
    (htx : ∀ a < s.txLen.toNat, s.txBuf.written a) (hrx : ∀ a < s.rxLen.toNat, s.rxBuf.written a) :
    AnswersOnce s (ReturnsNothing w) (exec i s) := by
  cases i with
  | crcLoad | crcUpd | txClr | rxClr => exact answersOnce_complete rfl fun _ => rfl
  | crcRd | hexEnc | hexDec | txStat | rxStat =>
    cases hi
    exact answersOnce_complete rfl fun h => absurd h (not_returnsNothing (by decide))
  | txPut b => exact execTxPut_answersOnce b s _
  | txSend =>
    cases hi
    exact execTxSend_answersOnce htx (not_returnsNothing (by decide))
  | rxLen =>
    cases hi
    exact execRxLen_answersOnce (not_returnsNothing (by decide))
  | rxRd idx =>
    cases hi
    exact execRxRd_answersOnce idx hrx (not_returnsNothing (by decide))
  | lineRx => cases hi
  | lineTmo => cases hi

theorem step_command_answersOnce {w : Word20} {s : State} {rest : List Input} (hs : Invariants s)
    (hp : s.presents (.command w) rest) : AnswersOnce s (ReturnsNothing w) (step s) := by
  cases h : decode (.command w) with
  | ok i =>
    rw [step_of_decode_ok hp h]
    exact exec_command_answersOnce (s := { s with inputs := rest }) (encode_of_decodeCommand h) hs.tx_written
      hs.rx_written
  | error e =>
    rw [step_of_decode_error hp h]
    exact answersOnce_raise (s' := { s with inputs := rest }) rfl

/-! ### Line events have none -/

@[simp] theorem storeDecoded_responses (b : Byte) (s : State) : (storeDecoded b s).responses = s.responses := by
  unfold storeDecoded
  split <;> rfl

@[simp] theorem takeChar_responses (c : Byte) (s : State) : (takeChar c s).responses = s.responses := by
  unfold takeChar
  split
  · rw [storeDecoded_responses]
  · rfl

theorem endFrame_of_written {s : State} (hrx : ∀ a < s.rxLen.toNat, s.rxBuf.written a) :
    ∃ v, endFrame s = .next { s with rxVerdict := v, rxState := .done } := by
  obtain ⟨v, hv⟩ := verdictAtEtx_of_written hrx
  exact ⟨v, by rw [endFrame, hv]⟩

theorem exec_lineRx_responses (c : Byte) {s : State} (hrx : ∀ a < s.rxLen.toNat, s.rxBuf.written a) :
    ∃ t, exec (.lineRx c) s = .next t ∧ t.responses = s.responses := by
  cases hstate : s.rxState with
  | hunt =>
    simp only [exec, execLineRx, hstate]
    split <;> exact ⟨_, rfl, rfl⟩
  | body =>
    simp only [exec, execLineRx, hstate]
    split
    · exact ⟨_, rfl, clearRx_responses s⟩
    · split
      · obtain ⟨v, hv⟩ := endFrame_of_written hrx
        exact ⟨_, hv, rfl⟩
      · exact ⟨_, rfl, takeChar_responses c s⟩
  | done =>
    simp only [exec, execLineRx, hstate]
    exact ⟨s, rfl, rfl⟩

theorem exec_lineTmo_responses (s : State) : ∃ t, exec .lineTmo s = .next t ∧ t.responses = s.responses := by
  simp only [exec, execLineTmo]
  split <;> exact ⟨_, rfl, rfl⟩

/-! ### The response word -/

@[simp] theorem opOf_responseWord (st : Status) (res : Half) : opOf (responseWord st res) = st.code :=
  opOf_commandWord st.code res

@[simp] theorem argOf_responseWord (st : Status) (res : Half) : argOf (responseWord st res) = res :=
  argOf_commandWord st.code res

theorem Status.code_eq_zero_iff (st : Status) : st.code = 0 ↔ st = .ok :=
  Status.code_injective.eq_iff' rfl

/-- Settles O8: each command ends in one response, a result only with status OK; line events end in none. -/
theorem everyCommandHasOneResponseWord : Obligations.EveryCommandHasOneResponseWord := by
  unfold Obligations.EveryCommandHasOneResponseWord
  refine ⟨fun st res => ⟨opOf_responseWord st res, argOf_responseWord st res, st.code_eq_zero_iff⟩,
    fun w s rest hs hp => step_command_answersOnce hs hp, fun c s rest hs hp => ?_, fun s rest _ hp => ?_⟩
  · rw [step_of_decode_ok hp rfl]
    exact exec_lineRx_responses (s := { s with inputs := rest }) c hs.rx_written
  · rw [step_of_decode_ok hp rfl]
    exact exec_lineTmo_responses _

/-! ## The wire frame by position (30_encoding.md R53) -/

/-- Byte `i` of the sequence gives characters `2 i` and `2 i + 1`. -/
theorem bytesToHex_getElem? (bs : List Byte) (i : Nat) :
    (bytesToHex bs)[2 * i]? = bs[i]?.map (fun b => nib2hex (hiNibble b)) ∧
    (bytesToHex bs)[2 * i + 1]? = bs[i]?.map (fun b => nib2hex (loNibble b)) := by
  induction bs generalizing i with
  | nil => exact ⟨rfl, rfl⟩
  | cons b rest ih =>
    cases i with
    | zero => exact ⟨rfl, rfl⟩
    | succ i => exact ih i

/-- The bytes between STX and ETX before they are turned into characters: the body and its CRC, low byte first. -/
def framedBytes (body : List Byte) : List Byte :=
  body ++ [loByte (crc16 body Config.crcInit), hiByte (crc16 body Config.crcInit)]

theorem frameBytes_eq (body : List Byte) :
    frameBytes body = Config.stx :: (bytesToHex (framedBytes body) ++ [Config.etx]) := by
  simp [frameBytes, framedBytes, bytesToHex_append]

@[simp] theorem framedBytes_length (body : List Byte) : (framedBytes body).length = body.length + 2 := by
  simp [framedBytes]

/-- Byte `i` of the body and CRC gives bytes `2 i + 1` and `2 i + 2` of the frame. -/
theorem frameBytes_getElem? {body : List Byte} {i : Nat} {b : Byte} (h : (framedBytes body)[i]? = some b) :
    (frameBytes body)[2 * i + 1]? = some (nib2hex (hiNibble b)) ∧
    (frameBytes body)[2 * i + 2]? = some (nib2hex (loNibble b)) := by
  obtain ⟨hhi, hlo⟩ := bytesToHex_getElem? (framedBytes body) i
  have hi : i < (framedBytes body).length := (List.getElem?_eq_some_iff.mp h).1
  rw [frameBytes_eq, List.getElem?_cons_succ, List.getElem?_cons_succ,
    List.getElem?_append_left (by rw [bytesToHex_length]; omega),
    List.getElem?_append_left (by rw [bytesToHex_length]; omega), hhi, hlo, h]
  exact ⟨rfl, rfl⟩

theorem frameBytes_length (body : List Byte) : (frameBytes body).length = 2 * body.length + 6 := by
  rw [frameBytes_eq, List.length_cons, List.length_append, bytesToHex_length, framedBytes_length]
  rfl

theorem frameBytes_getElem?_last (body : List Byte) : (frameBytes body)[2 * body.length + 5]? = some Config.etx := by
  have hlength : (Config.stx :: bytesToHex (framedBytes body)).length = 2 * body.length + 5 := by
    rw [List.length_cons, bytesToHex_length, framedBytes_length]
    rfl
  rw [frameBytes_eq, ← List.cons_append, ← hlength]
  exact List.getElem?_concat_length

theorem extractLsb'_loByte (v : Half) {k : Nat} (hk : k + 4 ≤ 8) : (loByte v).extractLsb' k 4 = v.extractLsb' k 4 :=
  BitVec.extractLsb'_extractLsb'_of_le hk

theorem extractLsb'_hiByte (v : Half) {k : Nat} (hk : k + 4 ≤ 8) :
    (hiByte v).extractLsb' k 4 = v.extractLsb' (8 + k) 4 := by
  apply BitVec.eq_of_getLsbD_eq
  intro i hi
  have hki : k + i < 8 := by omega
  rw [BitVec.getLsbD_extractLsb', BitVec.getLsbD_extractLsb', hiByte_getLsbD]
  simp [hki, Nat.add_assoc]

/-- Settles O25: each byte of the body and CRC gives two bytes of the frame, between STX and ETX. -/
theorem frameLayoutByPosition : Obligations.FrameLayoutByPosition := by
  unfold Obligations.FrameLayoutByPosition
  intro body _
  have hlo : (framedBytes body)[body.length]? = some (loByte (crc16 body Config.crcInit)) := by simp [framedBytes]
  have hhi : (framedBytes body)[body.length + 1]? = some (hiByte (crc16 body Config.crcInit)) := by simp [framedBytes]
  obtain ⟨hlo4, hlo0⟩ := frameBytes_getElem? hlo
  obtain ⟨hhi4, hhi0⟩ := frameBytes_getElem? hhi
  rw [hiNibble, extractLsb'_loByte _ (by decide)] at hlo4
  rw [loNibble, extractLsb'_loByte _ (by decide)] at hlo0
  rw [hiNibble, extractLsb'_hiByte _ (by decide)] at hhi4
  rw [loNibble, extractLsb'_hiByte _ (by decide)] at hhi0
  refine ⟨frameBytes_length body, rfl, fun i hi => ?_, hlo4, hlo0, hhi4, hhi0, frameBytes_getElem?_last body⟩
  have hbody : (framedBytes body)[i]? = some body[i] := by simp [framedBytes, List.getElem?_append_left hi]
  rw [Nat.add_comm 1, Nat.add_comm 2]
  exact frameBytes_getElem? hbody

end Sys2Proof.Machine

/-! ## What a command word of each operand shape runs (30_encoding.md R47, R50) -/

namespace Sys2Proof.Machine

/-- A word that decodes under a condition runs its instruction under it and is answered `(IllegalOp, 0)` otherwise. -/
theorem step_of_decode_ite {c : Prop} [Decidable c] {p : PortWord} {i : Instr} {e : DecodeError} {s : State}
    {rest : List Input} (hp : s.presents p rest) (h : decode p = if c then .ok i else .error e) :
    step s = if c then exec i { s with inputs := rest }
      else .next (respond .illegalOp 0 { s with inputs := rest }) := by
  split
  case isTrue hc => exact step_of_decode_ok hp (h.trans (if_pos hc))
  case isFalse hc => exact step_of_decode_error hp (h.trans (if_neg hc))

theorem wordRunsAny_of_decode {op : BitVec 4} {f : Half → Instr}
    (h : ∀ arg, decode (.command (commandWord op arg)) = .ok (f arg)) : WordRunsAny op f :=
  fun arg _ _ hp => step_of_decode_ok hp (h arg)

theorem wordRunsImm8_of_decode {op : BitVec 4} {f : Byte → Instr}
    (h : ∀ arg, decode (.command (commandWord op arg)) = decodeImm8 (commandWord op arg) f) : WordRunsImm8 op f := by
  intro arg s rest hp
  have hdecode := h arg
  rw [decodeImm8, argOf_commandWord] at hdecode
  exact step_of_decode_ite hp hdecode

theorem wordRunsNone_of_decode {op : BitVec 4} {i : Instr}
    (h : ∀ arg, decode (.command (commandWord op arg)) = decodeNone (commandWord op arg) i) : WordRunsNone op i := by
  intro arg s rest hp
  have hdecode := h arg
  rw [decodeNone, argOf_commandWord] at hdecode
  exact step_of_decode_ite hp hdecode

/-! ## The CRC commands (40_crc.md R67 to R69) -/

theorem exec_crcLoad (v : Half) (s : State) : exec (.crcLoad v) s = .next (respond .ok 0 { s with crc := v }) :=
  complete_eq 0 { s with crc := v }

theorem exec_crcUpd (b : Byte) (s : State) :
    exec (.crcUpd b) s = .next (respond .ok 0 { s with crc := crcStep s.crc b }) :=
  complete_eq 0 { s with crc := crcStep s.crc b }

theorem exec_crcRd (s : State) : exec .crcRd s = .next (respond .ok s.crc s) :=
  complete_eq s.crc s

/-- Settles O10: the decoder asks nothing of the `arg` of op 0x0. -/
theorem crcLoadWritesCrc : Obligations.CrcLoadWritesCrc := by
  unfold Obligations.CrcLoadWritesCrc
  exact ⟨exec_crcLoad, wordRunsAny_of_decode fun arg => by simp [decode, decodeCommand]⟩

/-- Settles O11: op 0x1 is of shape IMM8. -/
theorem crcUpdStepsCrc : Obligations.CrcUpdStepsCrc := by
  unfold Obligations.CrcUpdStepsCrc
  exact ⟨exec_crcUpd, wordRunsImm8_of_decode fun arg => by simp [decode, decodeCommand]⟩

/-- Settles O12: op 0x2 is of shape NONE. -/
theorem crcRdReturnsCrc : Obligations.CrcRdReturnsCrc := by
  unfold Obligations.CrcRdReturnsCrc
  exact ⟨exec_crcRd, wordRunsNone_of_decode fun arg => by simp [decode, decodeCommand]⟩

/-! ## The CRC step on unbounded naturals (40_crc.md R65, R70) -/

/-- The high byte is the source's `crc >> 8`, which fits 8 bits. -/
theorem hiByte_toNat (v : Half) : (hiByte v).toNat = v.toNat >>> 8 := by
  rw [hiByte, BitVec.extractLsb'_toNat, Nat.shiftRight_eq_div_pow]
  exact Nat.mod_eq_of_lt (Nat.div_lt_of_lt_mul v.isLt)

/-- Exclusive-or is bit by bit, so the four terms may be cut to 16 bits each or all at once. -/
theorem crcTerms_toNat (crc : Half) (x : Byte) :
    (crc <<< 8 ^^^ x.setWidth 16 <<< 12 ^^^ x.setWidth 16 <<< 5 ^^^ x.setWidth 16).toNat =
      ((crc.toNat <<< 8) ^^^ (x.toNat <<< 12) ^^^ (x.toNat <<< 5) ^^^ x.toNat) % 2 ^ 16 := by
  have hx : x.toNat % 2 ^ 16 = x.toNat := Nat.mod_eq_of_lt (Nat.lt_trans x.isLt (by decide))
  simp only [BitVec.toNat_xor, BitVec.toNat_shiftLeft, BitVec.toNat_setWidth, Nat.xor_mod_two_pow, hx]

/-- Settles O13: `x` is the source's, since exclusive-or and the right shift stay within 8 bits, and of the step's terms the
source keeps the low 16 bits. -/
theorem crcStepIsTheSourceLoopBody : Obligations.CrcStepIsTheSourceLoopBody := by
  unfold Obligations.CrcStepIsTheSourceLoopBody
  intro crc b
  rw [crcStep, crcTerms_toNat, BitVec.toNat_xor, BitVec.toNat_ushiftRight, BitVec.toNat_xor, hiByte_toNat]
  rfl

end Sys2Proof.Machine

/-! ## Nibbles and characters (41_hex.md R75, R76) -/

namespace Sys2Proof.Machine

theorem nib2hex_toNat (n : Nibble) :
    (nib2hex n).toNat = if n.toNat ≤ 9 then n.toNat + 0x30 else n.toNat + 0x37 := by
  have h : ∀ n : Nibble, (nib2hex n).toNat = if n.toNat ≤ 9 then n.toNat + 0x30 else n.toNat + 0x37 := by decide
  exact h n

theorem hex2nib_toNat_of_digit {c : Byte} (h30 : 0x30 ≤ c.toNat) (h39 : c.toNat ≤ 0x39) :
    (hex2nib c).toNat = c.toNat - 0x30 := by
  have hdigit : 0x30 ≤ c ∧ c ≤ 0x39 := ⟨h30, h39⟩
  rw [hex2nib, if_pos hdigit, BitVec.toNat_setWidth, BitVec.toNat_sub_of_le hdigit.1]
  exact Nat.mod_eq_of_lt (show c.toNat - 0x30 < 16 by omega)

theorem hex2nib_toNat_of_letter {c : Byte} (h41 : 0x41 ≤ c.toNat) (h46 : c.toNat ≤ 0x46) :
    (hex2nib c).toNat = c.toNat - 0x37 := by
  have hnot : ¬ (0x30 ≤ c ∧ c ≤ 0x39) := fun h => absurd (show c.toNat ≤ 0x39 from h.2) (by omega)
  have hletter : 0x41 ≤ c ∧ c ≤ 0x46 := ⟨h41, h46⟩
  have h37 : (0x37 : Byte) ≤ c := show 0x37 ≤ c.toNat by omega
  rw [hex2nib, if_neg hnot, if_pos hletter, BitVec.toNat_setWidth, BitVec.toNat_sub_of_le h37]
  exact Nat.mod_eq_of_lt (show c.toNat - 0x37 < 16 by omega)

theorem hex2nib_of_not_isHexChar {c : Byte} (h : ¬ isHexChar c) : hex2nib c = Config.hexnibOther c := by
  have hdigit : ¬ (0x30 ≤ c ∧ c ≤ 0x39) := fun hc => h (.inl hc)
  have hletter : ¬ (0x41 ≤ c ∧ c ≤ 0x46) := fun hc => h (.inr hc)
  rw [hex2nib, if_neg hdigit, if_neg hletter]

/-- Settles O17: each row of the two tables is a lemma above. -/
theorem nibbleFunctionsFollowTheirTables : Obligations.NibbleFunctionsFollowTheirTables := by
  unfold Obligations.NibbleFunctionsFollowTheirTables
  exact ⟨nib2hex_toNat, fun _ => hex2nib_toNat_of_digit, fun _ => hex2nib_toNat_of_letter,
    fun _ => hex2nib_of_not_isHexChar⟩

/-- Every output of `nib2hex` is proper (41_hex.md R81). -/
theorem isHexChar_nib2hex (n : Nibble) : isHexChar (nib2hex n) := by
  have hn : n.toNat < 16 := n.isLt
  rw [isHexChar, nib2hex_toNat]
  split <;> omega

/-- An improper character is not given back, whatever nibble `HEXNIB_OTHER` makes of it, since `nib2hex` of any nibble is
proper. -/
theorem nib2hex_hex2nib_eq_iff (c : Byte) : nib2hex (hex2nib c) = c ↔ isHexChar c := by
  constructor
  · intro h
    exact h ▸ isHexChar_nib2hex (hex2nib c)
  · rintro (⟨h30, h39⟩ | ⟨h41, h46⟩)
    · apply BitVec.eq_of_toNat_eq
      rw [nib2hex_toNat, hex2nib_toNat_of_digit h30 h39, if_pos (by omega), Nat.sub_add_cancel h30]
    · apply BitVec.eq_of_toNat_eq
      rw [nib2hex_toNat, hex2nib_toNat_of_letter h41 h46, if_neg (by omega), Nat.sub_add_cancel (by omega)]

/-! ## Two nibbles in a byte (41_hex.md R80) -/

/-- The shift leaves the four low bits to `lo`, so the or is a concatenation. -/
theorem byteOfNibbles_eq_append (hi lo : Nibble) : byteOfNibbles hi lo = hi ++ lo := by
  rw [BitVec.append_def, BitVec.shiftLeftZeroExtend_eq]
  rfl

@[simp] theorem hiNibble_byteOfNibbles (hi lo : Nibble) : hiNibble (byteOfNibbles hi lo) = hi := by
  rw [byteOfNibbles_eq_append]
  exact BitVec.extractLsb'_append_eq_left

@[simp] theorem loNibble_byteOfNibbles (hi lo : Nibble) : loNibble (byteOfNibbles hi lo) = lo := by
  rw [byteOfNibbles_eq_append]
  exact BitVec.extractLsb'_append_eq_right

theorem zext16_eq_append (b : Byte) : zext16 b = 0#8 ++ b :=
  BitVec.setWidth_eq_append (by decide)

/-! ## HEX.ENC and HEX.DEC (41_hex.md R77, R78) -/

theorem exec_hexEnc (b : Byte) (s : State) :
    exec (.hexEnc b) s = .next (respond .ok (nib2hex (hiNibble b) ++ nib2hex (loNibble b)) s) :=
  complete_eq (nib2hex (hiNibble b) ++ nib2hex (loNibble b)) s

theorem exec_hexDec (cHi cLo : Byte) (s : State) :
    exec (.hexDec cHi cLo) s = .next (respond .ok (zext16 (byteOfNibbles (hex2nib cHi) (hex2nib cLo))) s) :=
  complete_eq (zext16 (byteOfNibbles (hex2nib cHi) (hex2nib cLo))) s

/-- Settles O18: op 0x3 is of shape IMM8. -/
theorem hexEncReturnsTwoCharacters : Obligations.HexEncReturnsTwoCharacters := by
  unfold Obligations.HexEncReturnsTwoCharacters
  exact ⟨exec_hexEnc, wordRunsImm8_of_decode fun arg => by simp [decode, decodeCommand]⟩

/-- Settles O19: a byte of two nibbles and its extension by zeros are both concatenations, and the decoder asks nothing of the
`arg` of op 0x4. -/
theorem hexDecReturnsTheByte : Obligations.HexDecReturnsTheByte := by
  unfold Obligations.HexDecReturnsTheByte
  refine ⟨fun cHi cLo s => ?_, wordRunsAny_of_decode fun arg => ?_⟩
  · rw [exec_hexDec, zext16_eq_append, byteOfNibbles_eq_append]
  · simp [decode, decodeCommand, hiByte, loByte]

/-! ## The round trip (41_hex.md R79) -/

/-- HEX.DEC of the two characters of a byte answers the byte. -/
theorem exec_hexDec_nib2hex (b : Byte) (s : State) :
    exec (.hexDec (nib2hex (hiNibble b)) (nib2hex (loNibble b))) s = .next (respond .ok (zext16 b) s) := by
  rw [exec_hexDec, hex2nib_nib2hex, hex2nib_nib2hex, byteOfNibbles_nibbles]

theorem hexToBytes_bytesToHex (bs : List Byte) : hexToBytes (bytesToHex bs) = some bs := by
  induction bs with
  | nil => rfl
  | cons b rest ih => simp [bytesToHex, hexToBytes, ih]

/-- Decoding and encoding again sends each character through its nibble, one by one. -/
theorem bytesToHex_of_hexToBytes {t bs : List Byte} (h : hexToBytes t = some bs) :
    bytesToHex bs = t.map fun c => nib2hex (hex2nib c) := by
  induction t using hexToBytes.induct generalizing bs with
  | case1 =>
    cases h
    rfl
  | case2 => cases h
  | case3 hi lo rest hnone _ =>
    rw [hexToBytes, hnone] at h
    cases h
  | case4 hi lo rest bytes hsome ih =>
    rw [hexToBytes, hsome] at h
    cases h
    rw [bytesToHex, hiNibble_byteOfNibbles, loNibble_byteOfNibbles, ih hsome]
    rfl

/-- Settles O20: decoding and encoding again changes no character exactly when each one comes back from its nibble, and the
proper ones are those that do. -/
theorem hexRoundTrip : Obligations.HexRoundTrip := by
  unfold Obligations.HexRoundTrip
  refine ⟨hexToBytes_bytesToHex, hex2nib_nib2hex, fun b s => ⟨_, exec_hexEnc b s, ?_⟩, fun t bs h => ?_⟩
  · rw [BitVec.extractLsb'_append_eq_left, BitVec.extractLsb'_append_eq_right]
    exact exec_hexDec_nib2hex b s
  · calc bytesToHex bs = t
      _ ↔ t.map (fun c => nib2hex (hex2nib c)) = t.map id := by rw [bytesToHex_of_hexToBytes h, List.map_id]
      _ ↔ ∀ c ∈ t, nib2hex (hex2nib c) = c := List.map_inj_left
      _ ↔ ∀ c ∈ t, isHexChar c := by simp only [nib2hex_hex2nib_eq_iff]

end Sys2Proof.Machine

/-! ## The TX commands (42_tx_framer.md R86 to R89) -/

namespace Sys2Proof.Machine

theorem exec_txClr (s : State) : exec .txClr s = .next (respond .ok 0 (clearTx s)) :=
  complete_eq 0 (clearTx s)

/-- Settles O21: op 0x5 is of shape NONE. -/
theorem txClrEmptiesTheBuffer : Obligations.TxClrEmptiesTheBuffer := by
  unfold Obligations.TxClrEmptiesTheBuffer
  exact ⟨exec_txClr, wordRunsNone_of_decode fun arg => by simp [decode, decodeCommand]⟩

theorem exec_txPut_of_room (b : Byte) {s : State} (h : s.txLen.toNat < Config.txBufBytes) :
    exec (.txPut b) s =
      .next (respond .ok 0 { s with txBuf := s.txBuf.write s.txLen.toNat b, txLen := s.txLen + 1 }) :=
  if_pos h

theorem exec_txPut_of_full (b : Byte) {s : State} (h : Config.txBufBytes ≤ s.txLen.toNat) :
    exec (.txPut b) s = .next (respond .paramsTooLong 0 { s with txOvf := true }) :=
  if_neg (Nat.not_lt.mpr h)

/-- Settles O22: `TX_BUF_BYTES` is 195, and op 0x6 is of shape IMM8. -/
theorem txPutAppendsOrRefuses : Obligations.TxPutAppendsOrRefuses := by
  unfold Obligations.TxPutAppendsOrRefuses
  exact ⟨fun b _ => exec_txPut_of_room b, fun b _ => exec_txPut_of_full b,
    wordRunsImm8_of_decode fun arg => by simp [decode, decodeCommand]⟩

theorem exec_txSend_of_overflow {s : State} (hovf : s.txOvf = true) :
    exec .txSend s = .next (respond .paramsTooLong 0 (clearTx s)) :=
  if_pos hovf

theorem exec_txSend_of_empty {s : State} (hovf : s.txOvf = false) (hlen : s.txLen = 0) :
    exec .txSend s = .next (respond .txEmpty 0 s) := by
  rw [exec, execTxSend, if_neg (ne_true_of_eq_false hovf), if_pos hlen, raise_eq]

theorem exec_txSend_of_body {s : State} {body : List Byte} (hovf : s.txOvf = false) (hlen : s.txLen ≠ 0)
    (hbody : s.txBuf.readPrefix s.txLen.toNat = .ok body) :
    exec .txSend s = .next (respond .ok (BitVec.ofNat 16 (2 * s.txLen.toNat + 6))
      (clearTx (emit (frameBytes body) s))) := by
  rw [exec, execTxSend, if_neg (ne_true_of_eq_false hovf), if_neg hlen, hbody]
  exact complete_eq _ _

/-- A buffer of length 0 holds no bytes. -/
theorem txLen_ne_zero_of_readPrefix {s : State} {body : List Byte} (hne : body ≠ [])
    (hbody : s.txBuf.readPrefix s.txLen.toNat = .ok body) : s.txLen ≠ 0 := by
  intro hlen
  rw [hlen] at hbody
  exact hne (List.eq_nil_of_length_eq_zero (Memory.readPrefix_length hbody))

/-- Settles O23: the three outcomes are the branches of TX.SEND, and op 0x7 is of shape NONE. -/
theorem txSendEmitsTheFrame : Obligations.TxSendEmitsTheFrame := by
  unfold Obligations.TxSendEmitsTheFrame
  refine ⟨fun _ => exec_txSend_of_overflow, fun _ => exec_txSend_of_empty, fun s body hovf hne hbody => ?_,
    wordRunsNone_of_decode fun arg => by simp [decode, decodeCommand]⟩
  exact exec_txSend_of_body hovf (txLen_ne_zero_of_readPrefix hne hbody) hbody

theorem exec_txStat (s : State) : exec .txStat s = .next (respond .ok (txStatWord s) s) :=
  complete_eq (txStatWord s) s

/-! ### The fields of the TX.STAT result -/

theorem txStatWord_len (s : State) : (txStatWord s).extractLsb' 0 8 = s.txLen :=
  BitVec.extractLsb'_append_eq_right

@[simp] theorem flagBit_getLsbD_zero (f : Bool) : (flagBit f).getLsbD 0 = f := by
  cases f <;> rfl

theorem txStatWord_ovf (s : State) : (txStatWord s).getLsbD 8 = s.txOvf := by
  rw [txStatWord, BitVec.getLsbD_append, BitVec.getLsbD_append]
  exact flagBit_getLsbD_zero s.txOvf

theorem txStatWord_reserved (s : State) : (txStatWord s).extractLsb' 9 7 = 0 :=
  calc (txStatWord s).extractLsb' 9 7
    _ = (0#7 ++ flagBit s.txOvf).extractLsb' 1 7 := BitVec.extractLsb'_append_eq_of_le (by decide)
    _ = 0 := BitVec.extractLsb'_append_eq_left

/-- Settles O24: the response is `txStatWord`, field by field, and op 0x8 is of shape NONE. -/
theorem txStatReturnsOvfAndLen : Obligations.TxStatReturnsOvfAndLen := by
  unfold Obligations.TxStatReturnsOvfAndLen
  exact ⟨fun s => ⟨txStatWord s, exec_txStat s, txStatWord_len s, txStatWord_ovf s, txStatWord_reserved s⟩,
    wordRunsNone_of_decode fun arg => by simp [decode, decodeCommand]⟩

end Sys2Proof.Machine

/-! ## The line events (43_rx_deframer.md R96 to R102) -/

namespace Sys2Proof.Machine

/-! ### LINE.RX by the state of the deframer -/

theorem exec_lineRx_of_hunt (c : Byte) {s : State} (hstate : s.rxState = .hunt) :
    exec (.lineRx c) s = if c = Config.stx then .next { clearRx s with rxState := .body } else .next s := by
  rw [exec, execLineRx, hstate]

theorem exec_lineRx_of_body (c : Byte) {s : State} (hstate : s.rxState = .body) :
    exec (.lineRx c) s = if c = Config.stx then .next (clearRx s)
      else if c = Config.etx then endFrame s else .next (takeChar c s) := by
  rw [exec, execLineRx, hstate]

theorem exec_lineRx_of_done (c : Byte) {s : State} (hstate : s.rxState = .done) :
    exec (.lineRx c) s = .next s := by
  rw [exec, execLineRx, hstate]

/-- Settles O29: in HUNT the only question is whether the byte is STX. -/
theorem lineRxInHuntWaitsForStx : Obligations.LineRxInHuntWaitsForStx := by
  unfold Obligations.LineRxInHuntWaitsForStx
  exact ⟨fun _ hhunt => (exec_lineRx_of_hunt Config.stx hhunt).trans (if_pos rfl),
    fun c _ hhunt hc => (exec_lineRx_of_hunt c hhunt).trans (if_neg hc)⟩

/-- Settles O30: STX is asked for first in BODY too. -/
theorem lineRxStxInBodyRestartsTheFrame : Obligations.LineRxStxInBodyRestartsTheFrame := by
  unfold Obligations.LineRxStxInBodyRestartsTheFrame
  exact fun _ hbody => (exec_lineRx_of_body Config.stx hbody).trans (if_pos rfl)

/-- Settles O33: DONE has one row in the state table. -/
theorem lineRxInDoneIsDiscarded : Obligations.LineRxInDoneIsDiscarded := by
  unfold Obligations.LineRxInDoneIsDiscarded
  exact fun c _ hdone => exec_lineRx_of_done c hdone

/-! ### The verdict at ETX (R98, R101) -/

/-- What is read below a level, byte by byte. -/
theorem Memory.read_of_readPrefix {m : Memory} {n a : Nat} {bs : List Byte} (h : m.readPrefix n = .ok bs)
    (ha : a < bs.length) : m.read a = some bs[a] := by
  obtain ⟨hlen, hread⟩ := Memory.readPrefix_eq_ok_iff.mp h
  rw [hread a (hlen ▸ ha), List.getElem?_eq_getElem ha]

/-- What is read below a level begins with what is read below any lower one. -/
theorem Memory.readPrefix_of_append {m : Memory} {n : Nat} {front back : List Byte}
    (h : m.readPrefix n = .ok (front ++ back)) : m.readPrefix front.length = .ok front := by
  refine Memory.readPrefix_eq_ok_iff.mpr ⟨rfl, fun a ha => ?_⟩
  have hlt : a < (front ++ back).length := by
    rw [List.length_append]
    omega
  rw [Memory.read_of_readPrefix h hlt, List.getElem_append_left ha, List.getElem?_eq_getElem ha]

/-- The stored CRC is the last two bytes, low byte first. -/
theorem crcVerdict_of_readPrefix {m : Memory} {n : Nat} {body : List Byte} {lo hi : Byte}
    (h : m.readPrefix n = .ok (body ++ [lo, hi])) :
    crcVerdict m n = .ok (if crc16 body Config.crcInit = pair hi lo then .ok else .crcInvalid) := by
  have hn : n = body.length + 2 := by simpa using (Memory.readPrefix_length h).symm
  have hbody : m.readPrefix (n - 2) = .ok body := by
    rw [hn]
    exact Memory.readPrefix_of_append h
  have hlo : m.read (n - 2) = some lo := by
    rw [hn, Memory.read_of_readPrefix h (by simp)]
    simp
  have hhi : m.read (n - 1) = some hi := by
    rw [hn, Memory.read_of_readPrefix h (by simp)]
    simp
  simp only [crcVerdict, hbody, hlo, hhi]

theorem verdictAtEtx_of_overflow {s : State} (hovf : s.rxOvf = true) : verdictAtEtx s = .ok .overrun :=
  if_pos hovf

theorem verdictAtEtx_of_partial {s : State} (hovf : s.rxOvf = false)
    (hpart : s.rxPhase = true ∨ s.rxLen.toNat < Config.minBody) : verdictAtEtx s = .ok .truncated := by
  rw [verdictAtEtx, if_neg (ne_true_of_eq_false hovf), if_pos hpart]

theorem verdictAtEtx_of_whole {s : State} (hovf : s.rxOvf = false) (hphase : s.rxPhase = false)
    (hlen : Config.minBody ≤ s.rxLen.toNat) : verdictAtEtx s = crcVerdict s.rxBuf s.rxLen.toNat := by
  have hwhole : ¬ (s.rxPhase = true ∨ s.rxLen.toNat < Config.minBody) :=
    not_or.mpr ⟨ne_true_of_eq_false hphase, Nat.not_lt.mpr hlen⟩
  rw [verdictAtEtx, if_neg (ne_true_of_eq_false hovf), if_neg hwhole]

/-- ETX in BODY latches the verdict and changes nothing else but the state. -/
theorem exec_lineRx_etx_of_verdict {s : State} {v : Status} (hbody : s.rxState = .body)
    (hv : verdictAtEtx s = .ok v) :
    exec (.lineRx Config.etx) s = .next { s with rxVerdict := v, rxState := .done } := by
  rw [exec_lineRx_of_body Config.etx hbody, if_neg (by decide), if_pos rfl, endFrame, hv]

/-- Settles O31: each clause is a line of the verdict; a body of one byte or more and its CRC are no fewer than the three
bytes a frame needs. -/
theorem lineRxEtxInBodyLatchesTheVerdict : Obligations.LineRxEtxInBodyLatchesTheVerdict := by
  unfold Obligations.LineRxEtxInBodyLatchesTheVerdict
  refine ⟨fun s hbody hovf => ?overrun, fun s hbody hovf hpart => ?truncated,
    fun s body lo hi hbody hovf hphase hne hread => ?whole⟩
  case overrun => exact exec_lineRx_etx_of_verdict hbody (verdictAtEtx_of_overflow hovf)
  case truncated => exact exec_lineRx_etx_of_verdict hbody (verdictAtEtx_of_partial hovf hpart)
  case whole =>
    have hlen : Config.minBody ≤ s.rxLen.toNat := by
      rw [← Memory.readPrefix_length hread, List.length_append]
      exact Nat.add_le_add_right (List.length_pos_of_ne_nil hne) 2
    exact exec_lineRx_etx_of_verdict hbody
      ((verdictAtEtx_of_whole hovf hphase hlen).trans (crcVerdict_of_readPrefix hread))

/-! ### Hex characters (R99) -/

theorem storeDecoded_of_room (b : Byte) {s : State} (h : s.rxLen.toNat < Config.rxBufBytes) :
    storeDecoded b s = { s with rxBuf := s.rxBuf.write s.rxLen.toNat b, rxLen := s.rxLen + 1 } :=
  if_pos h

theorem storeDecoded_of_full (b : Byte) {s : State} (h : Config.rxBufBytes ≤ s.rxLen.toNat) :
    storeDecoded b s = { s with rxOvf := true } :=
  if_neg (Nat.not_lt.mpr h)

theorem takeChar_of_first (c : Byte) {s : State} (hphase : s.rxPhase = false) :
    takeChar c s = { s with rxNib := hex2nib c, rxPhase := true } :=
  if_neg (ne_true_of_eq_false hphase)

theorem takeChar_of_second (c : Byte) {s : State} (hphase : s.rxPhase = true) :
    takeChar c s = storeDecoded (s.rxNib ++ hex2nib c) { s with rxPhase := false } := by
  rw [takeChar, if_pos hphase, byteOfNibbles_eq_append]

theorem takeChar_of_room (c : Byte) {s : State} (hphase : s.rxPhase = true)
    (hroom : s.rxLen.toNat < Config.rxBufBytes) :
    takeChar c s = { s with
      rxPhase := false
      rxBuf := s.rxBuf.write s.rxLen.toNat (s.rxNib ++ hex2nib c)
      rxLen := s.rxLen + 1 } :=
  (takeChar_of_second c hphase).trans (storeDecoded_of_room (s := { s with rxPhase := false }) _ hroom)

theorem takeChar_of_full (c : Byte) {s : State} (hphase : s.rxPhase = true)
    (hfull : Config.rxBufBytes ≤ s.rxLen.toNat) : takeChar c s = { s with rxPhase := false, rxOvf := true } :=
  (takeChar_of_second c hphase).trans (storeDecoded_of_full (s := { s with rxPhase := false }) _ hfull)

theorem exec_lineRx_of_char {c : Byte} {s : State} (hbody : s.rxState = .body) (hstx : c ≠ Config.stx)
    (hetx : c ≠ Config.etx) : exec (.lineRx c) s = .next (takeChar c s) := by
  rw [exec_lineRx_of_body c hbody, if_neg hstx, if_neg hetx]

/-- Settles O32: the first character of a pair is kept, and the second completes a byte, which is stored or dropped. -/
theorem lineRxCharacterFormsBytes : Obligations.LineRxCharacterFormsBytes := by
  unfold Obligations.LineRxCharacterFormsBytes
  refine ⟨fun c s hbody hstx hetx hphase => ?first, fun c s hbody hstx hetx hphase hroom => ?stored,
    fun c s hbody hstx hetx hphase hfull => ?dropped⟩
  case first => rw [exec_lineRx_of_char hbody hstx hetx, takeChar_of_first c hphase]
  case stored => rw [exec_lineRx_of_char hbody hstx hetx, takeChar_of_room c hphase hroom]
  case dropped => rw [exec_lineRx_of_char hbody hstx hetx, takeChar_of_full c hphase hfull]

/-! ### The read timer (R102) -/

theorem exec_lineTmo_of_not_done {s : State} (hstate : s.rxState ≠ .done) :
    exec .lineTmo s = .next { clearRx s with rxVerdict := .timeout, rxState := .done } := by
  cases h : s.rxState with
  | hunt | body => rw [exec, execLineTmo, h]
  | done => exact absurd h hstate

theorem exec_lineTmo_of_done {s : State} (hstate : s.rxState = .done) : exec .lineTmo s = .next s := by
  rw [exec, execLineTmo, hstate]

/-- Settles O34: HUNT and BODY are the states other than DONE. -/
theorem lineTmoDiscardsAPartialFrame : Obligations.LineTmoDiscardsAPartialFrame := by
  unfold Obligations.LineTmoDiscardsAPartialFrame
  refine ⟨fun s hstate => exec_lineTmo_of_not_done fun hdone => ?_, fun _ => exec_lineTmo_of_done⟩
  simp [hdone] at hstate

end Sys2Proof.Machine

/-! ## The RX commands (43_rx_deframer.md R103 to R106) -/

namespace Sys2Proof.Machine

theorem exec_rxStat (s : State) : exec .rxStat s = .next (respond .ok (rxStatWord s) s) :=
  complete_eq (rxStatWord s) s

/-! ### The fields of the RX.STAT result -/

theorem rxStatWord_state (s : State) : (rxStatWord s).extractLsb' 0 2 = s.rxState.code :=
  BitVec.extractLsb'_append_eq_right

theorem rxStatWord_phase (s : State) : (rxStatWord s).getLsbD 2 = s.rxPhase := by
  rw [rxStatWord, BitVec.getLsbD_append, BitVec.getLsbD_append]
  exact flagBit_getLsbD_zero s.rxPhase

theorem rxStatWord_ovf (s : State) : (rxStatWord s).getLsbD 3 = s.rxOvf := by
  rw [rxStatWord, BitVec.getLsbD_append, BitVec.getLsbD_append, BitVec.getLsbD_append]
  exact flagBit_getLsbD_zero s.rxOvf

/-- Above the state and the two status bits stand the verdict and the reserved bits. -/
theorem rxStatWord_extractLsb'_above (s : State) (k n : Nat) :
    (rxStatWord s).extractLsb' (4 + k) n = (0#8 ++ s.rxVerdict.code).extractLsb' k n := by
  rw [rxStatWord, BitVec.extractLsb'_append_eq_of_le (by omega), BitVec.extractLsb'_append_eq_of_le (by omega),
    BitVec.extractLsb'_append_eq_of_le (by omega)]
  congr 1
  omega

theorem rxStatWord_verdict (s : State) : (rxStatWord s).extractLsb' 4 4 = s.rxVerdict.code :=
  (rxStatWord_extractLsb'_above s 0 4).trans BitVec.extractLsb'_append_eq_right

theorem rxStatWord_reserved (s : State) : (rxStatWord s).extractLsb' 8 8 = 0 :=
  (rxStatWord_extractLsb'_above s 4 8).trans BitVec.extractLsb'_append_eq_left

/-- Settles O35: the response is `rxStatWord`, field by field, and op 0x9 is of shape NONE. -/
theorem rxStatReturnsTheStatusFields : Obligations.RxStatReturnsTheStatusFields := by
  unfold Obligations.RxStatReturnsTheStatusFields
  refine ⟨fun s => ⟨rxStatWord s, exec_rxStat s, ?state, rxStatWord_phase s, rxStatWord_ovf s, rxStatWord_verdict s,
    rxStatWord_reserved s⟩, wordRunsNone_of_decode fun arg => by simp [decode, decodeCommand]⟩
  case state =>
    rw [rxStatWord_state]
    cases s.rxState <;> rfl

/-! ### RX.LEN and RX.RD -/

theorem exec_rxLen_of_not_done {s : State} (hstate : s.rxState ≠ .done) :
    exec .rxLen s = .next (respond .notReady 0 s) :=
  if_pos hstate

theorem exec_rxLen_of_failed {s : State} (hdone : s.rxState = .done) (hv : s.rxVerdict ≠ .ok) :
    exec .rxLen s = .next (respond s.rxVerdict 0 s) := by
  rw [exec, execRxLen, if_neg (not_not_intro hdone), if_pos hv, raise_eq]

theorem exec_rxLen_of_ok {s : State} (hdone : s.rxState = .done) (hv : s.rxVerdict = .ok) :
    exec .rxLen s = .next (respond .ok (BitVec.ofNat 16 (bodyLen s)) s) := by
  rw [exec, execRxLen, if_neg (not_not_intro hdone), if_neg (not_not_intro hv), complete_eq]

/-- From 2 on the length of the body does not wrap. -/
theorem ofNat_bodyLen {s : State} (hlen : 2 ≤ s.rxLen.toNat) : BitVec.ofNat 16 (bodyLen s) = s.rxLen - 2 := by
  unfold bodyLen
  bv_omega

/-- Settles O36: the three outcomes are the branches of RX.LEN, and op 0xA is of shape NONE. -/
theorem rxLenCountsTheBody : Obligations.RxLenCountsTheBody := by
  unfold Obligations.RxLenCountsTheBody
  refine ⟨fun _ => exec_rxLen_of_not_done, fun _ => exec_rxLen_of_failed, fun s hdone hv hlen => ?_,
    wordRunsNone_of_decode fun arg => by simp [decode, decodeCommand]⟩
  rw [exec_rxLen_of_ok hdone hv, ofNat_bodyLen hlen]

theorem exec_rxRd_of_not_done (idx : Nat) {s : State} (hstate : s.rxState ≠ .done) :
    exec (.rxRd idx) s = .next (respond .notReady 0 s) :=
  if_pos hstate

theorem exec_rxRd_of_failed (idx : Nat) {s : State} (hdone : s.rxState = .done) (hv : s.rxVerdict ≠ .ok) :
    exec (.rxRd idx) s = .next (respond s.rxVerdict 0 s) := by
  rw [exec, execRxRd, if_neg (not_not_intro hdone), if_pos hv, raise_eq]

theorem exec_rxRd_of_beyond {idx : Nat} {s : State} (hdone : s.rxState = .done) (hv : s.rxVerdict = .ok)
    (hidx : bodyLen s ≤ idx) : exec (.rxRd idx) s = .next (respond .shortAnswer 0 s) := by
  rw [exec, execRxRd, if_neg (not_not_intro hdone), if_neg (not_not_intro hv), if_pos hidx, raise_eq]

theorem exec_rxRd_of_byte {idx : Nat} {b : Byte} {s : State} (hdone : s.rxState = .done) (hv : s.rxVerdict = .ok)
    (hidx : idx < bodyLen s) (hb : s.rxBuf.read idx = some b) :
    exec (.rxRd idx) s = .next (respond .ok (zext16 b) s) := by
  rw [exec, execRxRd, if_neg (not_not_intro hdone), if_neg (not_not_intro hv), if_neg (Nat.not_le.mpr hidx), hb]
  exact complete_eq (zext16 b) s

/-- Settles O37: the four outcomes are the branches of RX.RD on a written byte, and the decoder asks nothing of the `arg`
of op 0xB. -/
theorem rxRdReturnsOneBodyByte : Obligations.RxRdReturnsOneBodyByte := by
  unfold Obligations.RxRdReturnsOneBodyByte
  exact ⟨fun idx _ => exec_rxRd_of_not_done idx, fun idx _ => exec_rxRd_of_failed idx,
    fun _ _ hdone hv hidx => exec_rxRd_of_beyond hdone hv (Nat.sub_le_of_le_add hidx),
    fun _ _ _ hdone hv hidx hb => exec_rxRd_of_byte hdone hv (Nat.lt_sub_of_add_lt hidx) hb,
    wordRunsAny_of_decode fun arg => by simp [decode, decodeCommand]⟩

/-! ### RX.CLR -/

theorem exec_rxClr (s : State) :
    exec .rxClr s = .next (respond .ok 0 { clearRx s with rxState := .hunt, rxVerdict := .ok }) :=
  complete_eq 0 { clearRx s with rxState := .hunt, rxVerdict := .ok }

/-- Settles O38: op 0xC is of shape NONE. -/
theorem rxClrReleasesTheReceiver : Obligations.RxClrReleasesTheReceiver := by
  unfold Obligations.RxClrReleasesTheReceiver
  exact ⟨exec_rxClr, wordRunsNone_of_decode fun arg => by simp [decode, decodeCommand]⟩

end Sys2Proof.Machine

/-! ## Reset (70_reset_and_hazards.md section 1) -/

namespace Sys2Proof.Machine

theorem step_of_reset {s : State} {rest : List Input} (hreset : s.inputs = .reset :: rest) :
    step s = .next (applyReset { s with inputs := rest }) := by
  rw [step, takeInput_cons hreset]

/-- With both fill levels at 0 no buffer byte is observable, and with `RX_PHASE` = 0 neither is `RX_NIB`. -/
theorem sameObservable_of_empty {t : State} (htx : t.txLen = 0) (hrx : t.rxLen = 0) (hphase : t.rxPhase = false)
    (txb rxb : Memory) (nib : Nibble) : SameObservable t { t with txBuf := txb, rxBuf := rxb, rxNib := nib } where
  crc := rfl
  txLen := rfl
  txOvf := rfl
  txOut := rfl
  rxLen := rfl
  rxState := rfl
  rxPhase := rfl
  rxOvf := rfl
  rxVerdict := rfl
  inputs := rfl
  responses := rfl
  txBuf := by simp [htx]
  rxBuf := by simp [hrx]
  rxNib := by simp [hphase]

/-- Settles O42: the reset step is `applyReset`, whose fields are those of `State.reset` but for the two lists. -/
theorem resetStepGivesTheResetValues : Obligations.ResetStepGivesTheResetValues := by
  unfold Obligations.ResetStepGivesTheResetValues
  refine ⟨fun s rest hreset => ⟨applyReset { s with inputs := rest }, step_of_reset hreset, ?registers⟩, ?reset⟩
  case registers =>
    exact ⟨rfl, rfl, rfl, rfl, rfl, rfl, rfl, rfl, rfl, rfl, rfl, sameObservable_of_empty rfl rfl rfl⟩
  case reset => exact ⟨rfl, rfl, rfl, rfl, rfl, rfl, rfl, rfl, rfl, rfl⟩

end Sys2Proof.Machine

/-! ## Decoding undoes encoding (30_encoding.md sections 1 to 3) -/

namespace Sys2Proof

theorem decodeNone_commandWord (op : BitVec 4) (i : Instr) : decodeNone (commandWord op 0) i = .ok i := by
  rw [decodeNone, argOf_commandWord, if_pos rfl]

theorem decodeImm8_commandWord (op : BitVec 4) (b : Byte) (f : Byte → Instr) :
    decodeImm8 (commandWord op (imm8Arg b)) f = .ok (f b) := by
  rw [decodeImm8, argOf_commandWord, hiByte_imm8Arg, loByte_imm8Arg, if_pos rfl]

/-- Settles O2: each operand is a field of the word that the decoder reads back, an index because it fits 16 bits. -/
theorem decodeOfEncodeIsTheInstruction : Obligations.DecodeOfEncodeIsTheInstruction := by
  unfold Obligations.DecodeOfEncodeIsTheInstruction
  intro i hi
  cases i with
  | crcLoad v => simp [encode, decode, decodeCommand]
  | crcUpd b | hexEnc b | txPut b => simp [encode, decode, decodeCommand, decodeImm8_commandWord]
  | crcRd | txClr | txSend | txStat | rxStat | rxLen | rxClr =>
    simpa [encode, decode, decodeCommand] using decodeNone_commandWord _ _
  | hexDec cHi cLo => simp [encode, decode, decodeCommand]
  | rxRd idx =>
    have hidx : idx < 65536 := of_decide_eq_true hi
    simpa [encode, decode, decodeCommand] using hidx
  | lineRx c | lineTmo => rfl

/-- An index comes out of the 16 bits of `arg`. -/
theorem wellFormed_of_decodeCommand {w : Word20} {i : Instr} (h : decodeCommand w = .ok i) :
    i.wellFormed = true := by
  cases i with
  | rxRd idx =>
    cases encode_of_decodeCommand h
    have hidx : (BitVec.ofNat 16 idx).toNat = idx := by
      simpa [decodeCommand] using h
    exact decide_eq_true (hidx ▸ (BitVec.ofNat 16 idx).isLt)
  | _ => rfl

/-- Settles O3: the two line ports carry their operand as it is. -/
theorem encodeOfDecodedWordIsTheWord : Obligations.EncodeOfDecodedWordIsTheWord := by
  unfold Obligations.EncodeOfDecodedWordIsTheWord
  intro p i h
  cases p with
  | command w => exact ⟨encode_of_decodeCommand h, wellFormed_of_decodeCommand h⟩
  | lineByte c | lineStrobe =>
    cases h
    exact ⟨rfl, rfl⟩

/-- Settles O1, word by word. -/
theorem specWordsDecodeAsListed : Obligations.SpecWordsDecodeAsListed := by
  unfold Obligations.SpecWordsDecodeAsListed
  decide

end Sys2Proof

/-! ## `crc_step` as eight rounds of the bit-serial CRC (40_crc.md R71) -/

namespace Sys2Proof.Machine

/-- One round: the top bit leaves and, if it was 1, the generator is added. -/
def bitSerialRound (c : Half) : Half := if c.getLsbD 15 then (c <<< 1) ^^^ 0x1021 else c <<< 1

theorem bitSerialRounds_succ (n : Nat) (c : Half) :
    bitSerialRounds (n + 1) c = bitSerialRounds n (bitSerialRound c) := rfl

/-- Two generators cancel. -/
theorem bitSerialRound_xor (c d : Half) : bitSerialRound (c ^^^ d) = bitSerialRound c ^^^ bitSerialRound d := by
  unfold bitSerialRound
  rw [BitVec.getLsbD_xor, BitVec.shiftLeft_xor_distrib]
  cases c.getLsbD 15 with
  | false => cases d.getLsbD 15 <;> simp [BitVec.xor_assoc]
  | true =>
    cases d.getLsbD 15 with
    | false =>
      show c <<< 1 ^^^ d <<< 1 ^^^ 0x1021 = c <<< 1 ^^^ 0x1021 ^^^ d <<< 1
      ac_rfl
    | true =>
      calc c <<< 1 ^^^ d <<< 1
        _ = c <<< 1 ^^^ d <<< 1 ^^^ (0x1021 ^^^ 0x1021) := BitVec.xor_zero.symm
        _ = c <<< 1 ^^^ 0x1021 ^^^ (d <<< 1 ^^^ 0x1021) := by ac_rfl

theorem bitSerialRounds_xor (n : Nat) (c d : Half) :
    bitSerialRounds n (c ^^^ d) = bitSerialRounds n c ^^^ bitSerialRounds n d := by
  induction n generalizing c d with
  | zero => rfl
  | succ n ih => rw [bitSerialRounds_succ, bitSerialRound_xor, ih, bitSerialRounds_succ, bitSerialRounds_succ]

/-- The generator is odd and a shift leaves bit 0 clear, so bit 0 tells whether the generator was added. -/
theorem bitSerialRound_getLsbD_zero (c : Half) : (bitSerialRound c).getLsbD 0 = c.getLsbD 15 := by
  unfold bitSerialRound
  cases c.getLsbD 15 <;> simp

theorem bitSerialRound_injective : Function.Injective bitSerialRound := by
  intro c d h
  have htop : c.getLsbD 15 = d.getLsbD 15 := by
    rw [← bitSerialRound_getLsbD_zero, h, bitSerialRound_getLsbD_zero]
  have hshift : c <<< 1 = d <<< 1 := by
    unfold bitSerialRound at h
    rw [htop] at h
    split at h
    · exact (BitVec.xor_left_inj _).mp h
    · exact h
  apply BitVec.eq_of_getLsbD_eq
  intro i hi
  by_cases htop_i : i = 15
  · rw [htop_i, htop]
  · have hbit := congrArg (·.getLsbD (i + 1)) hshift
    simpa [show i + 1 < 16 by omega, BitVec.getLsbD_eq_getElem hi] using hbit

theorem bitSerialRounds_injective (n : Nat) : Function.Injective (bitSerialRounds n) := by
  induction n with
  | zero => exact Function.injective_id
  | succ n ih => exact ih.comp bitSerialRound_injective

/-! ### The two bytes of the register apart -/

theorem register_eq_xor (crc : Half) :
    crc = (loByte crc).setWidth 16 ^^^ ((hiByte crc).setWidth 16 <<< 8) := by
  apply BitVec.eq_of_getLsbD_eq
  intro i hi
  simp only [BitVec.getLsbD_xor, BitVec.getLsbD_setWidth, BitVec.getLsbD_shiftLeft, hiByte_getLsbD, loByte_getLsbD]
  by_cases h8 : i < 8
  · simp [h8, hi]
  · simp [h8, hi, show i - 8 < 8 by omega, show i - 8 < 16 by omega, show 8 + (i - 8) = i by omega]

theorem shiftLeft_eight_eq_loByte (crc : Half) : crc <<< 8 = (loByte crc).setWidth 16 <<< 8 := by
  apply BitVec.eq_of_getLsbD_eq
  intro i hi
  simp only [BitVec.getLsbD_setWidth, BitVec.getLsbD_shiftLeft, loByte_getLsbD]
  by_cases h8 : i < 8
  · simp [h8]
  · simp [show i - 8 < 8 by omega, show i - 8 < 16 by omega]

/-- The high byte takes in the new one and is spread over the register; the low byte moves up. -/
theorem crcStep_eq_xor (crc : Half) (b : Byte) :
    crcStep crc b = ((loByte crc).setWidth 16 <<< 8) ^^^ crcStep 0 (hiByte crc ^^^ b) := by
  have hzero : hiByte 0 = 0 := rfl
  simp only [crcStep, hzero, ← shiftLeft_eight_eq_loByte]
  simp [BitVec.xor_assoc]

/-- Settles O14: rounds are linear, so the two bytes of the register may be followed apart, 256 cases each: in eight rounds
the low byte only moves up, and the high byte becomes what the step makes of it. -/
theorem crcStepIsTheBitSerialCrc : Obligations.CrcStepIsTheBitSerialCrc := by
  unfold Obligations.CrcStepIsTheBitSerialCrc
  intro crc b
  have hlo : ∀ x : Byte, x.setWidth 16 <<< 8 = bitSerialRounds 8 (x.setWidth 16) := by decide
  have hhi : ∀ x : Byte, crcStep 0 x = bitSerialRounds 8 (x.setWidth 16 <<< 8) := by decide
  calc crcStep crc b
    _ = bitSerialRounds 8 ((loByte crc).setWidth 16 ^^^ ((hiByte crc ^^^ b).setWidth 16 <<< 8)) := by
      rw [crcStep_eq_xor, hlo, hhi, bitSerialRounds_xor]
    _ = bitSerialRounds 8 (crc ^^^ (b.setWidth 16 <<< 8)) := by
      rw [BitVec.setWidth_xor, BitVec.shiftLeft_xor_distrib, ← BitVec.xor_assoc, ← register_eq_xor]

/-! ## One changed byte (43_rx_deframer.md section 4) -/

theorem crcStep_left_injective (b : Byte) : Function.Injective (crcStep · b) := by
  intro c d h
  simp only [crcStepIsTheBitSerialCrc _ _] at h
  exact (BitVec.xor_left_inj _).mp (bitSerialRounds_injective 8 h)

theorem crcStep_right_injective (crc : Half) : Function.Injective (crcStep crc) := by
  intro x y h
  rw [crcStepIsTheBitSerialCrc crc x, crcStepIsTheBitSerialCrc crc y] at h
  have hshift : x.setWidth 16 <<< 8 = y.setWidth 16 <<< 8 :=
    (BitVec.xor_right_inj crc).mp (bitSerialRounds_injective 8 h)
  bv_omega

theorem crc16_injective (data : List Byte) : Function.Injective (crc16 data) := by
  induction data with
  | nil => exact Function.injective_id
  | cons b rest ih => exact ih.comp (crcStep_left_injective b)

/-- Settles O16: a step takes different bytes to different registers, and what follows keeps registers apart. -/
theorem oneChangedByteChangesTheChecksum : Obligations.OneChangedByteChangesTheChecksum := by
  unfold Obligations.OneChangedByteChangesTheChecksum
  intro before after x y init hxy h
  rw [crc16_append, crc16_append, crc16_append, crc16_append] at h
  exact hxy (crcStep_right_injective (crc16 before init) (crc16_injective after h))

end Sys2Proof.Machine

/-! ## What an operation with a next state has done -/

namespace Sys2Proof.Machine

/-- The operations that answer a value and change nothing else. -/
def onlyReads : Instr → Bool
  | .crcRd | .hexEnc _ | .hexDec _ _ | .txStat | .rxStat | .rxLen | .rxRd _ => true
  | .crcLoad _ | .crcUpd _ | .txClr | .txPut _ | .txSend | .rxClr | .lineRx _ | .lineTmo => false

/-- The reads of a received frame, which need one: RX.LEN and RX.RD. -/
def readsFrame : Instr → Bool
  | .rxLen | .rxRd _ => true
  | .crcLoad _ | .crcUpd _ | .crcRd | .hexEnc _ | .hexDec _ _ | .txClr | .txPut _ | .txSend | .txStat | .rxStat
  | .rxClr | .lineRx _ | .lineTmo => false

/-- The next state of an operation in state `s`: one constructor for each branch of its meaning, with the
branch's guards. -/
inductive Effect (s : State) : Instr → State → Prop
  | crcLoad (v : Half) : Effect s (.crcLoad v) (respond .ok 0 { s with crc := v })
  | crcUpd (b : Byte) : Effect s (.crcUpd b) (respond .ok 0 { s with crc := crcStep s.crc b })
  | read {i : Instr} (res : Half) (hi : onlyReads i = true) : Effect s i (respond .ok res s)
  | notReady {i : Instr} (hi : readsFrame i = true) : Effect s i (respond .notReady 0 s)
  | failed {i : Instr} (hi : readsFrame i = true) (hv : s.rxVerdict ≠ .ok) : Effect s i (respond s.rxVerdict 0 s)
  | beyond (idx : Nat) : Effect s (.rxRd idx) (respond .shortAnswer 0 s)
  | txClr : Effect s .txClr (respond .ok 0 (clearTx s))
  | put (b : Byte) (hroom : s.txLen.toNat < Config.txBufBytes) : Effect s (.txPut b)
      (respond .ok 0 { s with txBuf := s.txBuf.write s.txLen.toNat b, txLen := s.txLen + 1 })
  | putRefused (b : Byte) (hfull : Config.txBufBytes ≤ s.txLen.toNat) : Effect s (.txPut b)
      (respond .paramsTooLong 0 { s with txOvf := true })
  | sendRefused : Effect s .txSend (respond .paramsTooLong 0 (clearTx s))
  | sendEmpty : Effect s .txSend (respond .txEmpty 0 s)
  | sent {body : List Byte} (hlen : s.txLen ≠ 0) (hbody : s.txBuf.readPrefix s.txLen.toNat = .ok body) :
      Effect s .txSend (respond .ok (BitVec.ofNat 16 (2 * s.txLen.toNat + 6)) (clearTx (emit (frameBytes body) s)))
  | rxClr : Effect s .rxClr (respond .ok 0 { clearRx s with rxState := .hunt, rxVerdict := .ok })
  | frameStart (hstate : s.rxState ≠ .done) : Effect s (.lineRx Config.stx) { clearRx s with rxState := .body }
  | hunting {c : Byte} (hstx : c ≠ Config.stx) (hhunt : s.rxState = .hunt) : Effect s (.lineRx c) s
  | discarded (c : Byte) (hdone : s.rxState = .done) : Effect s (.lineRx c) s
  | frameEnd {v : Status} (hbody : s.rxState = .body) (hv : verdictAtEtx s = .ok v) :
      Effect s (.lineRx Config.etx) { s with rxVerdict := v, rxState := .done }
  | firstChar {c : Byte} (hbody : s.rxState = .body) (hstx : c ≠ Config.stx) (hetx : c ≠ Config.etx)
      (hphase : s.rxPhase = false) : Effect s (.lineRx c) { s with rxNib := hex2nib c, rxPhase := true }
  | byteStored {c : Byte} (hbody : s.rxState = .body) (hstx : c ≠ Config.stx) (hetx : c ≠ Config.etx)
      (hphase : s.rxPhase = true) (hroom : s.rxLen.toNat < Config.rxBufBytes) : Effect s (.lineRx c) { s with
        rxPhase := false
        rxBuf := s.rxBuf.write s.rxLen.toNat (s.rxNib ++ hex2nib c)
        rxLen := s.rxLen + 1 }
  | byteDropped {c : Byte} (hbody : s.rxState = .body) (hstx : c ≠ Config.stx) (hetx : c ≠ Config.etx)
      (hfull : Config.rxBufBytes ≤ s.rxLen.toNat) : Effect s (.lineRx c) { s with rxPhase := false, rxOvf := true }
  | timeout (hstate : s.rxState ≠ .done) :
      Effect s .lineTmo { clearRx s with rxVerdict := .timeout, rxState := .done }
  | late (hdone : s.rxState = .done) : Effect s .lineTmo s

theorem effect_of_execTxPut {b : Byte} {s t : State} (h : execTxPut b s = .next t) : Effect s (.txPut b) t := by
  unfold execTxPut at h
  split at h
  case isTrue hroom => cases h; exact .put b hroom
  case isFalse hfull => cases h; exact .putRefused b (Nat.not_lt.mp hfull)

theorem effect_of_execTxSend {s t : State} (h : execTxSend s = .next t) : Effect s .txSend t := by
  unfold execTxSend at h
  split at h
  case isTrue => cases h; exact .sendRefused
  case isFalse =>
    split at h
    case isTrue => cases h; exact .sendEmpty
    case isFalse hlen =>
      split at h
      case h_1 body hbody => cases h; exact .sent hlen hbody
      case h_2 => cases h

theorem effect_of_execRxLen {s t : State} (h : execRxLen s = .next t) : Effect s .rxLen t := by
  unfold execRxLen at h
  split at h
  case isTrue => cases h; exact .notReady rfl
  case isFalse =>
    split at h
    case isTrue hv => cases h; exact .failed rfl hv
    case isFalse => cases h; exact .read _ rfl

theorem effect_of_execRxRd {idx : Nat} {s t : State} (h : execRxRd idx s = .next t) : Effect s (.rxRd idx) t := by
  unfold execRxRd at h
  split at h
  case isTrue => cases h; exact .notReady rfl
  case isFalse =>
    split at h
    case isTrue hv => cases h; exact .failed rfl hv
    case isFalse =>
      split at h
      case isTrue => cases h; exact .beyond idx
      case isFalse =>
        split at h
        case h_1 b _ => cases h; exact .read _ rfl
        case h_2 => cases h

theorem effect_of_endFrame {s t : State} (hbody : s.rxState = .body) (h : endFrame s = .next t) :
    Effect s (.lineRx Config.etx) t := by
  unfold endFrame at h
  split at h
  case h_1 v hv => cases h; exact .frameEnd hbody hv
  case h_2 => cases h

theorem effect_of_takeChar {c : Byte} {s : State} (hbody : s.rxState = .body) (hstx : c ≠ Config.stx)
    (hetx : c ≠ Config.etx) : Effect s (.lineRx c) (takeChar c s) := by
  cases hphase : s.rxPhase with
  | false =>
    rw [takeChar_of_first c hphase]
    exact .firstChar hbody hstx hetx hphase
  | true =>
    rcases Nat.lt_or_ge s.rxLen.toNat Config.rxBufBytes with hroom | hfull
    · rw [takeChar_of_room c hphase hroom]
      exact .byteStored hbody hstx hetx hphase hroom
    · rw [takeChar_of_full c hphase hfull]
      exact .byteDropped hbody hstx hetx hfull

theorem clearRx_of_body {s : State} (hbody : s.rxState = .body) : clearRx s = { clearRx s with rxState := .body } := by
  rw [← hbody]
  rfl

theorem effect_of_exec_lineRx {c : Byte} {s t : State} (h : exec (.lineRx c) s = .next t) : Effect s (.lineRx c) t := by
  cases hstate : s.rxState with
  | hunt =>
    rw [exec_lineRx_of_hunt c hstate] at h
    split at h
    case isTrue hc => cases h; cases hc; exact .frameStart (by simp [hstate])
    case isFalse hc => cases h; exact .hunting hc hstate
  | body =>
    rw [exec_lineRx_of_body c hstate] at h
    split at h
    case isTrue hc =>
      cases h
      rw [clearRx_of_body hstate, hc]
      exact .frameStart (by simp [hstate])
    case isFalse hstx =>
      split at h
      case isTrue hc => cases hc; exact effect_of_endFrame hstate h
      case isFalse hetx => cases h; exact effect_of_takeChar hstate hstx hetx
  | done =>
    rw [exec_lineRx_of_done c hstate] at h
    cases h
    exact .discarded c hstate

theorem effect_of_exec_lineTmo {s t : State} (h : exec .lineTmo s = .next t) : Effect s .lineTmo t := by
  by_cases hdone : s.rxState = .done
  · rw [exec_lineTmo_of_done hdone] at h
    cases h
    exact .late hdone
  · rw [exec_lineTmo_of_not_done hdone] at h
    cases h
    exact .timeout hdone

/-- Every next state is that of a branch. -/
theorem effect_of_exec {i : Instr} {s t : State} (h : exec i s = .next t) : Effect s i t := by
  cases i with
  | crcLoad v => cases h; exact .crcLoad v
  | crcUpd b => cases h; exact .crcUpd b
  | crcRd | hexEnc | hexDec | txStat | rxStat => cases h; exact .read _ rfl
  | txClr => cases h; exact .txClr
  | txPut b => exact effect_of_execTxPut h
  | txSend => exact effect_of_execTxSend h
  | rxLen => exact effect_of_execRxLen h
  | rxRd idx => exact effect_of_execRxRd h
  | rxClr => cases h; exact .rxClr
  | lineRx c => exact effect_of_exec_lineRx h
  | lineTmo => exact effect_of_exec_lineTmo h

/-- A step with a next state took nothing, took a reset, answered an illegal word, or ran an operation. -/
theorem step_cases {s t : State} (h : step s = .next t) :
    (s.inputs = [] ∧ t = s) ∨
    (∃ rest, s.inputs = .reset :: rest ∧ t = applyReset { s with inputs := rest }) ∨
    (∃ p rest, s.presents p rest ∧ t = respond .illegalOp 0 { s with inputs := rest }) ∨
    (∃ p rest i, s.presents p rest ∧ decode p = .ok i ∧ Effect { s with inputs := rest } i t) := by
  cases hin : s.inputs with
  | nil =>
    rw [step, takeInput_nil hin] at h
    cases h
    exact .inl ⟨rfl, rfl⟩
  | cons input rest =>
    cases input with
    | reset =>
      rw [step_of_reset hin] at h
      cases h
      exact .inr (.inl ⟨rest, rfl, rfl⟩)
    | op p =>
      cases hp : decode p with
      | ok i =>
        rw [step_of_decode_ok hin hp] at h
        exact .inr (.inr (.inr ⟨p, rest, i, hin, hp, effect_of_exec h⟩))
      | error e =>
        rw [step_of_decode_error hin hp] at h
        cases h
        exact .inr (.inr (.inl ⟨p, rest, hin, rfl⟩))

end Sys2Proof.Machine

/-! ## What an operation writes, unit by unit (20_memory.md section 4) -/

namespace Sys2Proof.Machine

theorem onlyReads_of_readsFrame {i : Instr} (hi : readsFrame i = true) : onlyReads i = true := by
  cases i with
  | rxLen | rxRd => rfl
  | _ => cases hi

theorem writesRx_of_onlyReads {i : Instr} (hi : onlyReads i = true) : writesRx i = false := by
  cases i with
  | rxClr | lineRx | lineTmo => cases hi
  | _ => rfl

section
variable {s t : State} {i : Instr}

theorem Effect.crc_eq (h : Effect s i t) (hi : usesCrc i = false) : t.crc = s.crc := by
  cases h with
  | crcLoad | crcUpd => cases hi
  | _ => rfl

theorem Effect.sameTx (h : Effect s i t) (hi : ofTx i = false) : SameTx s t := by
  cases h with
  | txClr | put | putRefused | sendRefused | sendEmpty | sent => cases hi
  | _ => exact ⟨rfl, rfl, rfl, rfl⟩

theorem Effect.sameRx (h : Effect s i t) (hi : writesRx i = false) : SameRx s t := by
  cases h with
  | rxClr | frameStart | frameEnd | firstChar | byteStored | byteDropped | timeout => cases hi
  | _ => exact ⟨rfl, rfl, rfl, rfl, rfl, rfl, rfl⟩

theorem Effect.inputs_eq (h : Effect s i t) : t.inputs = s.inputs := by
  cases h <;> rfl

end

/-- Settles O48: the branches that write a unit are of its own operations. -/
theorem noUnitWritesAnothersState : Obligations.NoUnitWritesAnothersState := by
  unfold Obligations.NoUnitWritesAnothersState
  intro i s t h
  have heffect := effect_of_exec h
  exact ⟨heffect.crc_eq, heffect.sameTx, heffect.sameRx, heffect.inputs_eq⟩

/-! ## The state table of the deframer (43_rx_deframer.md R95) -/

theorem rxNextState_of_not_writesRx {i : Instr} (hi : writesRx i = false) (st : RxState) : rxNextState st i = st := by
  cases i with
  | rxClr | lineRx | lineTmo => cases hi
  | _ => rfl

theorem rxNextState_body_of_ne {c : Byte} (hetx : c ≠ Config.etx) : rxNextState .body (.lineRx c) = .body :=
  if_neg hetx

theorem rxNextState_stx {st : RxState} (hstate : st ≠ .done) : rxNextState st (.lineRx Config.stx) = .body := by
  cases st with
  | hunt | body => rfl
  | done => exact absurd rfl hstate

/-- Settles O39, branch by branch of the operations that write the deframer. -/
theorem rxStateFollowsTheTable : Obligations.RxStateFollowsTheTable := by
  unfold Obligations.RxStateFollowsTheTable
  intro i s t h
  have heffect := effect_of_exec h
  cases hi : writesRx i with
  | false =>
    obtain ⟨-, -, hstate, -⟩ := heffect.sameRx hi
    rw [rxNextState_of_not_writesRx hi, hstate]
  | true =>
    cases heffect with
    | rxClr | timeout => rfl
    | frameStart hstate => exact (rxNextState_stx hstate).symm
    | hunting hstx hhunt => rw [hhunt]; exact (if_neg hstx).symm
    | discarded c hdone => rw [hdone]; rfl
    | frameEnd hbody => rw [hbody]; rfl
    | firstChar hbody hstx hetx | byteStored hbody hstx hetx | byteDropped hbody hstx hetx =>
      rw [hbody, rxNextState_body_of_ne hetx]
    | late hdone => exact hdone
    | read _ hread => rw [writesRx_of_onlyReads hread] at hi; cases hi
    | notReady hread | failed hread => rw [writesRx_of_onlyReads (onlyReads_of_readsFrame hread)] at hi; cases hi
    | _ => cases hi

/-! ## The buffers byte by byte (20_memory.md R30) -/

theorem Effect.txBuf_read {s t : State} {i : Instr} (h : Effect s i t) {a : Nat}
    (ha : ¬ ∃ b, i = .txPut b ∧ s.txLen.toNat < 195 ∧ a = s.txLen.toNat) : t.txBuf.read a = s.txBuf.read a := by
  cases h with
  | put b hroom => exact Memory.read_write_of_ne _ _ fun heq => ha ⟨b, rfl, hroom, heq⟩
  | _ => rfl

theorem Effect.rxBuf_read {s t : State} {i : Instr} (h : Effect s i t) {a : Nat}
    (ha : ¬ ∃ c, i = .lineRx c ∧ c ≠ 0x02 ∧ c ≠ 0x03 ∧ s.rxState = .body ∧ s.rxPhase = true ∧
      s.rxLen.toNat < Config.rxBufBytes ∧ a = s.rxLen.toNat) : t.rxBuf.read a = s.rxBuf.read a := by
  cases h with
  | byteStored hbody hstx hetx hphase hroom =>
    exact Memory.read_write_of_ne _ _ fun heq => ha ⟨_, rfl, hstx, hetx, hbody, hphase, hroom, heq⟩
  | _ => rfl

/-- Settles O51: a buffer is written in one branch only, at its fill level. -/
theorem bufferBytesChangeOnlyWhereStored : Obligations.BufferBytesChangeOnlyWhereStored := by
  unfold Obligations.BufferBytesChangeOnlyWhereStored
  intro i s t h
  refine ⟨fun a => (effect_of_exec h).txBuf_read, fun b hi hroom => ?put, fun a => (effect_of_exec h).rxBuf_read,
    fun c hi hstx hetx hbody hphase hroom => ?char⟩
  case put =>
    rw [hi, exec_txPut_of_room b hroom] at h
    cases h
    exact Memory.read_write_self _ _ _
  case char =>
    rw [hi, exec_lineRx_of_char hbody hstx hetx, takeChar_of_room c hphase hroom] at h
    cases h
    exact Memory.read_write_self _ _ _

/-! ## `TXOUT` (42_tx_framer.md section 3) -/

/-- Only TX.SEND of a buffer that is not empty emits. -/
theorem Effect.txOut_cases {s t : State} {i : Instr} (h : Effect s i t) : t.txOut = s.txOut ∨
    ∃ body, i = .txSend ∧ body ≠ [] ∧ s.txBuf.readPrefix s.txLen.toNat = .ok body ∧
      t.txOut = s.txOut ++ frameBytes body ∧
      t.responses = s.responses ++ [responseWord .ok (BitVec.ofNat 16 (frameBytes body).length)] := by
  cases h with
  | sent hlen hbody =>
    rename_i body
    have hlength := Memory.readPrefix_length hbody
    refine .inr ⟨body, rfl, ?_, hbody, rfl, ?_⟩
    · rintro rfl
      exact hlen (BitVec.eq_of_toNat_eq hlength.symm)
    · rw [frameBytes_length, hlength]
      rfl
  | _ => exact .inl rfl

/-- Settles O27: of the encodings only 0x70000 is that of TX.SEND. -/
theorem txOutGrowsOnlyByWholeFrames : Obligations.TxOutGrowsOnlyByWholeFrames := by
  unfold Obligations.TxOutGrowsOnlyByWholeFrames
  intro s t h
  rcases step_cases h with ⟨-, rfl⟩ | ⟨rest, hin, rfl⟩ | ⟨p, rest, -, rfl⟩ | ⟨p, rest, i, hp, hi, heffect⟩
  · exact .inl rfl
  · exact .inr (.inl ⟨rest, hin, rfl⟩)
  · exact .inl rfl
  · rcases heffect.txOut_cases with hsame | ⟨body, rfl, hne, hbody, hout, hresp⟩
    · exact .inl hsame
    · obtain ⟨rfl, -⟩ := encodeOfDecodedWordIsTheWord p .txSend hi
      exact .inr (.inr ⟨rest, body, hp, hne, hbody, hout, hresp⟩)

end Sys2Proof.Machine

/-! ## The invariants of 10_state.md R24 -/

namespace Sys2Proof.Machine

/-! ### The shared updates keep them -/

theorem Invariants.respond {s : State} (hs : Invariants s) (st : Status) (res : Half) :
    Invariants (respond st res s) := { hs with }

theorem Invariants.withInputs {s : State} (hs : Invariants s) (rest : List Input) :
    Invariants { s with inputs := rest } := { hs with }

theorem Invariants.withCrc {s : State} (hs : Invariants s) (c : Half) : Invariants { s with crc := c } := { hs with }

theorem Invariants.emit {s : State} (hs : Invariants s) (ws : List Byte) : Invariants (emit ws s) := { hs with }

theorem Invariants.clearTx {s : State} (hs : Invariants s) : Invariants (clearTx s) := { hs with
  txLen_le := Nat.zero_le _
  txOvf_full := fun h => nomatch h
  tx_written := fun a ha => absurd ha (Nat.not_lt_zero a) }

/-- With nothing received, what is left to show is what the state says about the verdict. -/
theorem Invariants.clearRx_with {s : State} (hs : Invariants s) {st : RxState} {v : Status}
    (hok : v = .ok ↔ st ≠ .done)
    (hv : v ∈ [Status.ok, .crcInvalid, .timeout, .truncated, .overrun]) :
    Invariants { clearRx s with rxState := st, rxVerdict := v } := { hs with
  rxLen_le := Nat.zero_le _
  hunt_clear := fun h => ⟨rfl, rfl, rfl, hok.mpr (by rw [show st = .hunt from h]; decide)⟩
  body_verdict := fun h => hok.mpr (by rw [show st = .body from h]; decide)
  rxOvf_full := fun h => nomatch h
  done_ok := fun h h' => absurd h (hok.mp h')
  done_timeout := fun _ _ => ⟨rfl, rfl, rfl⟩
  rx_written := fun a ha => absurd ha (Nat.not_lt_zero a)
  verdict_legal := hv }

theorem Invariants.reset : Invariants State.reset where
  txLen_le := Nat.zero_le _
  txOvf_full := fun h => nomatch h
  rxLen_le := Nat.zero_le _
  hunt_clear := fun _ => ⟨rfl, rfl, rfl, rfl⟩
  body_verdict := fun h => nomatch h
  rxOvf_full := fun h => nomatch h
  done_ok := fun h => nomatch h
  done_timeout := fun h => nomatch h
  tx_written := fun a ha => absurd ha (Nat.not_lt_zero a)
  rx_written := fun a ha => absurd ha (Nat.not_lt_zero a)
  verdict_legal := List.mem_cons_self
  txBuf_wf := Memory.wf_nil _
  rxBuf_wf := Memory.wf_nil _

/-- Settles O44: nothing is stored, received or sent. -/
theorem invariantsHoldAtReset : Obligations.InvariantsHoldAtReset := by
  unfold Obligations.InvariantsHoldAtReset
  exact Invariants.reset

theorem Invariants.applyReset (s : State) : Invariants (applyReset s) := { Invariants.reset with }

/-! ### TX.PUT -/

theorem Memory.written_write {m : Memory} {n : Nat} (v : Byte) (h : ∀ a < n, m.written a) :
    ∀ a < n + 1, (m.write n v).written a := by
  intro a ha
  rw [Memory.written, Memory.read_write]
  split
  · rfl
  · exact h a (by omega)

theorem Invariants.put {s : State} (hs : Invariants s) (b : Byte) (hroom : s.txLen.toNat < Config.txBufBytes) :
    Invariants { s with txBuf := s.txBuf.write s.txLen.toNat b, txLen := s.txLen + 1 } := by
  have hlen : (s.txLen + 1).toNat = s.txLen.toNat + 1 := by
    rw [Config.txBufBytes_eq] at hroom
    bv_omega
  exact { hs with
    txLen_le := hlen ▸ hroom
    txOvf_full := fun h => absurd (hs.txOvf_full h) (Nat.ne_of_lt hroom)
    tx_written := hlen.symm ▸ Memory.written_write b hs.tx_written
    txBuf_wf := Memory.wf_write b hs.txBuf_wf hroom }

theorem Invariants.putRefused {s : State} (hs : Invariants s) (hfull : Config.txBufBytes ≤ s.txLen.toNat) :
    Invariants { s with txOvf := true } := { hs with
  txOvf_full := fun _ => Nat.le_antisymm hs.txLen_le hfull }

/-! ### LINE.RX in BODY -/

theorem crcVerdict_cases {m : Memory} {n : Nat} {v : Status} (h : crcVerdict m n = .ok v) :
    v = .crcInvalid ∨ (v = .ok ∧ ∃ body lo hi, m.readPrefix (n - 2) = .ok body ∧ m.read (n - 2) = some lo ∧
      m.read (n - 1) = some hi ∧ crc16 body Config.crcInit = pair hi lo) := by
  unfold crcVerdict at h
  split at h
  case h_1 => cases h
  case h_2 body hbody =>
    split at h
    case h_1 => cases h
    case h_2 lo hlo =>
      split at h
      case h_1 => cases h
      case h_2 hi hhi =>
        cases h
        split
        case isTrue hcrc => exact .inr ⟨rfl, body, lo, hi, hbody, hlo, hhi, hcrc⟩
        case isFalse => exact .inl rfl

/-- `OK` is found only for a whole frame with the CRC it carries (R101). -/
theorem verdictAtEtx_cases {s : State} {v : Status} (h : verdictAtEtx s = .ok v) :
    v ∈ [Status.crcInvalid, .truncated, .overrun] ∨
    (v = .ok ∧ 3 ≤ s.rxLen.toNat ∧ s.rxPhase = false ∧ s.rxOvf = false ∧ StoredCrcAgrees s) := by
  unfold verdictAtEtx at h
  split at h
  case isTrue => cases h; exact .inl (by decide)
  case isFalse hovf =>
    split at h
    case isTrue => cases h; exact .inl (by decide)
    case isFalse hwhole =>
      obtain ⟨hphase, hlen⟩ := not_or.mp hwhole
      rcases crcVerdict_cases h with rfl | ⟨hv, hcrc⟩
      · exact .inl (by decide)
      · exact .inr ⟨hv, Nat.not_lt.mp hlen, Bool.eq_false_of_not_eq_true hphase, Bool.eq_false_of_not_eq_true hovf,
          hcrc⟩

theorem verdictAtEtx_ne_timeout {s : State} {v : Status} (h : verdictAtEtx s = .ok v) : v ≠ .timeout := by
  rintro rfl
  rcases verdictAtEtx_cases h with hmem | ⟨hv, -⟩
  · exact absurd hmem (by decide)
  · cases hv

theorem verdictAtEtx_legal {s : State} {v : Status} (h : verdictAtEtx s = .ok v) :
    v ∈ [Status.ok, .crcInvalid, .timeout, .truncated, .overrun] := by
  rcases verdictAtEtx_cases h with hmem | ⟨rfl, -⟩
  · have hsub : ([Status.crcInvalid, .truncated, .overrun] : List Status) ⊆
        [Status.ok, .crcInvalid, .timeout, .truncated, .overrun] := by decide
    exact hsub hmem
  · decide

theorem Invariants.frameEnd {s : State} (hs : Invariants s) {v : Status} (hv : verdictAtEtx s = .ok v) :
    Invariants { s with rxVerdict := v, rxState := .done } := { hs with
  hunt_clear := fun h => nomatch h
  body_verdict := fun h => nomatch h
  done_ok := fun _ hok => by
    cases hok
    rcases verdictAtEtx_cases hv with hmem | ⟨-, hwhole⟩
    · exact absurd hmem (by decide)
    · exact hwhole
  done_timeout := fun _ htimeout => absurd htimeout (verdictAtEtx_ne_timeout hv)
  verdict_legal := verdictAtEtx_legal hv }

theorem Invariants.firstChar {s : State} (hs : Invariants s) (hbody : s.rxState = .body) (n : Nibble) :
    Invariants { s with rxNib := n, rxPhase := true } := { hs with
  hunt_clear := fun h => nomatch hbody.symm.trans h
  done_ok := fun h => nomatch hbody.symm.trans h
  done_timeout := fun h => nomatch hbody.symm.trans h }

theorem Invariants.byteStored {s : State} (hs : Invariants s) (hbody : s.rxState = .body) (b : Byte)
    (hroom : s.rxLen.toNat < Config.rxBufBytes) :
    Invariants { s with rxPhase := false, rxBuf := s.rxBuf.write s.rxLen.toNat b, rxLen := s.rxLen + 1 } := by
  have hlen : (s.rxLen + 1).toNat = s.rxLen.toNat + 1 := by
    have hcap := Config.rxBufBytes_bounds.2
    bv_omega
  exact { hs with
    rxLen_le := hlen ▸ hroom
    hunt_clear := fun h => nomatch hbody.symm.trans h
    rxOvf_full := fun h => absurd (hs.rxOvf_full h) (Nat.ne_of_lt hroom)
    done_ok := fun h => nomatch hbody.symm.trans h
    done_timeout := fun h => nomatch hbody.symm.trans h
    rx_written := hlen.symm ▸ Memory.written_write b hs.rx_written
    rxBuf_wf := Memory.wf_write b hs.rxBuf_wf hroom }

theorem Invariants.byteDropped {s : State} (hs : Invariants s) (hbody : s.rxState = .body)
    (hfull : Config.rxBufBytes ≤ s.rxLen.toNat) : Invariants { s with rxPhase := false, rxOvf := true } := { hs with
  hunt_clear := fun h => nomatch hbody.symm.trans h
  rxOvf_full := fun _ => Nat.le_antisymm hs.rxLen_le hfull
  done_ok := fun h => nomatch hbody.symm.trans h
  done_timeout := fun h => nomatch hbody.symm.trans h }

/-! ### Every operation, every step -/

theorem Invariants.verdict_of_not_done {s : State} (hs : Invariants s) (hstate : s.rxState ≠ .done) :
    s.rxVerdict = .ok := by
  cases hst : s.rxState with
  | hunt =>
    obtain ⟨-, -, -, hv⟩ := hs.hunt_clear hst
    exact hv
  | body => exact hs.body_verdict hst
  | done => exact absurd hst hstate

theorem Effect.keeps_invariants {s t : State} {i : Instr} (h : Effect s i t) (hs : Invariants s) : Invariants t := by
  cases h with
  | crcLoad v => exact (hs.withCrc v).respond _ _
  | crcUpd b => exact (hs.withCrc _).respond _ _
  | read | notReady | failed | beyond | sendEmpty => exact hs.respond _ _
  | txClr | sendRefused => exact hs.clearTx.respond _ _
  | put b hroom => exact (hs.put b hroom).respond _ _
  | putRefused b hfull => exact (hs.putRefused hfull).respond _ _
  | sent => exact (hs.emit _).clearTx.respond _ _
  | rxClr => exact (hs.clearRx_with (st := .hunt) (v := .ok) (by decide) (by decide)).respond _ _
  | frameStart hstate =>
    exact hs.clearRx_with (st := .body) (iff_of_true (hs.verdict_of_not_done hstate) (by decide)) hs.verdict_legal
  | hunting | discarded | late => exact hs
  | frameEnd hbody hv => exact hs.frameEnd hv
  | firstChar hbody => exact hs.firstChar hbody _
  | byteStored hbody hstx hetx hphase hroom => exact hs.byteStored hbody _ hroom
  | byteDropped hbody hstx hetx hfull => exact hs.byteDropped hbody hfull
  | timeout => exact hs.clearRx_with (st := .done) (v := .timeout) (by decide) (by decide)

/-- Settles O45: no step does more than one branch of one operation, or reset. -/
theorem everyStepKeepsTheInvariants : Obligations.EveryStepKeepsTheInvariants := by
  unfold Obligations.EveryStepKeepsTheInvariants
  intro s t hs h
  rcases step_cases h with ⟨-, rfl⟩ | ⟨rest, -, rfl⟩ | ⟨p, rest, -, rfl⟩ | ⟨p, rest, i, -, -, heffect⟩
  · exact hs
  · exact Invariants.applyReset _
  · exact (hs.withInputs rest).respond _ _
  · exact heffect.keeps_invariants (hs.withInputs rest)

end Sys2Proof.Machine

/-! ## No run stops (60_exceptions.md R115) -/

namespace Sys2Proof.Machine

theorem step_total {s : State} (hs : Invariants s) : ∃ t, step s = .next t := by
  cases hin : s.inputs with
  | nil => exact ⟨s, by rw [step, takeInput_nil hin]⟩
  | cons input rest =>
    cases input with
    | reset => exact ⟨_, step_of_reset hin⟩
    | op p =>
      cases p with
      | command w =>
        obtain ⟨t, -, -, ht, -⟩ := step_command_answersOnce hs hin
        exact ⟨t, ht⟩
      | lineByte c =>
        obtain ⟨t, ht, -⟩ := exec_lineRx_responses (s := { s with inputs := rest }) c hs.rx_written
        exact ⟨t, (step_of_decode_ok hin rfl).trans ht⟩
      | lineStrobe =>
        obtain ⟨t, ht, -⟩ := exec_lineTmo_responses { s with inputs := rest }
        exact ⟨t, (step_of_decode_ok hin rfl).trans ht⟩

/-- Settles O46, by induction on the number of steps. -/
theorem noRunEverStops : Obligations.NoRunEverStops := by
  unfold Obligations.NoRunEverStops
  intro s n hs
  induction n generalizing s with
  | zero => exact ⟨s, rfl, hs⟩
  | succ n ih =>
    obtain ⟨t, ht⟩ := step_total hs
    rw [runSteps_succ_of_next ht]
    exact ih t (everyStepKeepsTheInvariants s t hs ht)

/-! ## The statuses of each operation (60_exceptions.md R117) -/

/-- The operations without `IllegalOp` in their list are those for which every `arg` is legal. -/
theorem illegalOp_mem_statusesOf {w : Word20} {e : DecodeError} (h : decodeCommand w = .error e) :
    Status.illegalOp ∈ statusesOf (opOf w) := by
  have hops : ∀ op : BitVec 4, Status.illegalOp ∈ statusesOf op ∨ op = 0x0 ∨ op = 0x4 ∨ op = 0xB := by decide
  rcases hops (opOf w) with hmem | hop | hop | hop
  · exact hmem
  all_goals simp [decodeCommand, hop] at h

theorem ok_mem_statusesOf {i : Instr} {w : Word20} (hi : encode i = .command w) : Status.ok ∈ statusesOf (opOf w) := by
  cases i with
  | lineRx | lineTmo => cases hi
  | _ =>
    cases hi
    rw [opOf_commandWord]
    decide

theorem mem_statusesOf_of_readsFrame {i : Instr} {w : Word20} (hi : encode i = .command w)
    (hread : readsFrame i = true) {st : Status}
    (hst : st ∈ [Status.notReady, .crcInvalid, .timeout, .truncated, .overrun]) : st ∈ statusesOf (opOf w) := by
  cases i with
  | rxLen | rxRd =>
    cases hi
    rw [opOf_commandWord]
    revert st
    decide
  | _ => cases hread

/-- A verdict that RX.LEN and RX.RD answer. -/
theorem Invariants.verdict_of_ne_ok {s : State} (hs : Invariants s) (hv : s.rxVerdict ≠ .ok) :
    s.rxVerdict ∈ [Status.notReady, .crcInvalid, .timeout, .truncated, .overrun] := by
  rcases List.mem_cons.mp hs.verdict_legal with hok | hmem
  · exact absurd hok hv
  · exact List.mem_cons_of_mem _ hmem

theorem Effect.status_mem {s t : State} {i : Instr} {w : Word20} (h : Effect s i t) (hi : encode i = .command w)
    (hs : Invariants s) : ∃ st res, t.responses = s.responses ++ [responseWord st res] ∧ st ∈ statusesOf (opOf w) := by
  cases h with
  | crcLoad | crcUpd | read | txClr | put | sent | rxClr => exact ⟨.ok, _, rfl, ok_mem_statusesOf hi⟩
  | notReady hread => exact ⟨.notReady, 0, rfl, mem_statusesOf_of_readsFrame hi hread (by decide)⟩
  | failed hread hv => exact ⟨_, 0, rfl, mem_statusesOf_of_readsFrame hi hread (hs.verdict_of_ne_ok hv)⟩
  | beyond =>
    cases hi
    exact ⟨.shortAnswer, 0, rfl, by rw [opOf_commandWord]; decide⟩
  | putRefused | sendRefused =>
    cases hi
    exact ⟨.paramsTooLong, 0, rfl, by rw [opOf_commandWord]; decide⟩
  | sendEmpty =>
    cases hi
    exact ⟨.txEmpty, 0, rfl, by rw [opOf_commandWord]; decide⟩
  | _ => cases hi

/-- A byte changes the verdict only as ETX in BODY. -/
theorem Effect.verdict_of_lineRx {s t : State} {c : Byte} (h : Effect s (.lineRx c) t)
    (hv : t.rxVerdict ≠ s.rxVerdict) :
    c = Config.etx ∧ s.rxState = .body ∧ verdictAtEtx s = .ok t.rxVerdict := by
  cases h with
  | frameEnd hbody hverdict => exact ⟨rfl, hbody, hverdict⟩
  | read _ hi | notReady hi | failed hi => cases hi
  | _ => exact absurd rfl hv

theorem Effect.verdict_of_lineTmo {s t : State} (h : Effect s .lineTmo t) (hv : t.rxVerdict ≠ s.rxVerdict) :
    t.rxVerdict = .timeout := by
  cases h with
  | timeout => rfl
  | read _ hi | notReady hi | failed hi => cases hi
  | late => exact absurd rfl hv

/-- Settles O9: each branch of an operation answers with a status of its list; ETX in BODY finds the verdict OK there, so it
changes it to another one. -/
theorem statusesOfEachOperation : Obligations.StatusesOfEachOperation := by
  unfold Obligations.StatusesOfEachOperation
  refine ⟨fun w s rest hs hp => ?command, fun c s t rest hs hp h hv => ?byte, fun s t rest hs hp h hv => ?strobe⟩
  case command =>
    obtain ⟨t, -, -, ht, -⟩ := step_command_answersOnce hs hp
    cases hw : decode (.command w) with
    | ok i =>
      have heffect := effect_of_exec ((step_of_decode_ok hp hw).symm.trans ht)
      obtain ⟨st, res, hresp, hmem⟩ := heffect.status_mem (encode_of_decodeCommand hw) (hs.withInputs rest)
      exact ⟨t, st, res, ht, hresp, hmem⟩
    | error e => exact ⟨_, .illegalOp, 0, step_of_decode_error hp hw, rfl, illegalOp_mem_statusesOf hw⟩
  case byte =>
    have heffect := effect_of_exec ((step_of_decode_ok hp rfl).symm.trans h)
    obtain ⟨hc, hbody, hverdict⟩ := heffect.verdict_of_lineRx hv
    rcases verdictAtEtx_cases hverdict with hmem | ⟨hok, -⟩
    · exact ⟨hc, hmem⟩
    · exact absurd (hok.trans (hs.body_verdict hbody).symm) hv
  case strobe =>
    have heffect := effect_of_exec ((step_of_decode_ok hp rfl).symm.trans h)
    exact heffect.verdict_of_lineTmo hv

/-! ## Commands that are turned away (60_exceptions.md section 4) -/

theorem responseWord_inj {st st' : Status} {res res' : Half} :
    responseWord st res = responseWord st' res' ↔ st = st' ∧ res = res' := by
  rw [← Status.code_injective.eq_iff]
  exact commandWord_inj

theorem status_eq_of_responses {before : List Word20} {st st' : Status} {res res' : Half}
    (h : before ++ [responseWord st res] = before ++ [responseWord st' res']) : st = st' := by
  have hword : responseWord st res = responseWord st' res' := by simpa using h
  exact (responseWord_inj.mp hword).1

theorem Effect.eq_respond_of_turned_away {s t : State} {i : Instr} {st : Status} (h : Effect s i t)
    (hst : st ∈ [Status.illegalOp, .shortAnswer, .notReady, .txEmpty])
    (hresp : t.responses = s.responses ++ [responseWord st 0]) : t = respond st 0 s := by
  cases h with
  | notReady | failed | beyond | sendEmpty => rw [status_eq_of_responses hresp]
  | frameStart | hunting | discarded | frameEnd | firstChar | byteStored | byteDropped | timeout | late =>
    simp at hresp
  | _ =>
    cases status_eq_of_responses hresp
    exact absurd hst (by decide)

/-- Settles O53: of the branches that answer one of the four statuses none writes anything else. -/
theorem turnedAwayCommandsChangeNothing : Obligations.TurnedAwayCommandsChangeNothing := by
  unfold Obligations.TurnedAwayCommandsChangeNothing
  intro w s t rest st hp h hst hresp
  cases hw : decode (.command w) with
  | ok i =>
    have heffect := effect_of_exec ((step_of_decode_ok hp hw).symm.trans h)
    exact heffect.eq_respond_of_turned_away hst hresp
  | error e =>
    cases (step_of_decode_error hp hw).symm.trans h
    rw [status_eq_of_responses hresp]
    rfl

/-! ## RX.RD again (20_memory.md section 3) -/

theorem exec_rxRd_of_unwritten {idx : Nat} {s : State} (hdone : s.rxState = .done) (hv : s.rxVerdict = .ok)
    (hidx : idx < bodyLen s) (hb : s.rxBuf.read idx = none) :
    exec (.rxRd idx) s = .fault (.unwrittenByte .rxBuf idx) := by
  rw [exec, execRxRd, if_neg (not_not_intro hdone), if_neg (not_not_intro hv), if_neg (Nat.not_le.mpr hidx), hb]

/-- RX.RD answers alike for like receivers, and does no more. -/
theorem exec_rxRd_of_sameRx {idx : Nat} {s t u : State} (hsame : SameRx s u) (h : exec (.rxRd idx) s = .next t) :
    ∃ st res, t = respond st res s ∧ exec (.rxRd idx) u = .next (respond st res u) := by
  obtain ⟨hbuf, hlen, hstate, -, -, -, hverdict⟩ := hsame
  have hbodyLen : bodyLen s = bodyLen u := by rw [bodyLen, hlen, bodyLen]
  by_cases hdone : s.rxState = .done
  · by_cases hv : s.rxVerdict = .ok
    · rcases Nat.lt_or_ge idx (bodyLen s) with hidx | hidx
      · cases hb : s.rxBuf.read idx with
        | some b =>
          cases (exec_rxRd_of_byte hdone hv hidx hb).symm.trans h
          exact ⟨_, _, rfl, exec_rxRd_of_byte (hstate ▸ hdone) (hverdict ▸ hv) (hbodyLen ▸ hidx) (hbuf ▸ hb)⟩
        | none => cases (exec_rxRd_of_unwritten hdone hv hidx hb).symm.trans h
      · cases (exec_rxRd_of_beyond hdone hv hidx).symm.trans h
        exact ⟨_, _, rfl, exec_rxRd_of_beyond (hstate ▸ hdone) (hverdict ▸ hv) (hbodyLen ▸ hidx)⟩
    · cases (exec_rxRd_of_failed idx hdone hv).symm.trans h
      refine ⟨_, _, rfl, ?_⟩
      rw [hverdict] at hv ⊢
      exact exec_rxRd_of_failed idx (hstate ▸ hdone) hv
  · cases (exec_rxRd_of_not_done idx hdone).symm.trans h
    exact ⟨_, _, rfl, exec_rxRd_of_not_done idx (hstate ▸ hdone)⟩

theorem SameRx.refl (s : State) : SameRx s s := ⟨rfl, rfl, rfl, rfl, rfl, rfl, rfl⟩

theorem SameRx.trans {s t u : State} (hst : SameRx s t) (htu : SameRx t u) : SameRx s u := by
  obtain ⟨hbuf, hlen, hstate, hphase, hnib, hovf, hverdict⟩ := hst
  obtain ⟨hbuf', hlen', hstate', hphase', hnib', hovf', hverdict'⟩ := htu
  exact ⟨hbuf.trans hbuf', hlen.trans hlen', hstate.trans hstate', hphase.trans hphase', hnib.trans hnib',
    hovf.trans hovf', hverdict.trans hverdict'⟩

theorem exists_of_execAll_cons {i : Instr} {is : List Instr} {s u : State} (h : execAll (i :: is) s = .next u) :
    ∃ t, exec i s = .next t ∧ execAll is t = .next u := by
  unfold execAll at h
  split at h
  case h_1 t ht => exact ⟨t, ht, h⟩
  all_goals cases h

theorem sameRx_of_execAll {is : List Instr} {s u : State} (hi : ∀ i ∈ is, writesRx i = false)
    (h : execAll is s = .next u) : SameRx s u := by
  induction is generalizing s with
  | nil =>
    cases h
    exact SameRx.refl _
  | cons i is ih =>
    obtain ⟨hhead, htail⟩ := List.forall_mem_cons.mp hi
    obtain ⟨t, ht, hrest⟩ := exists_of_execAll_cons h
    exact ((effect_of_exec ht).sameRx hhead).trans (ih htail hrest)

/-- Settles O52: what is between leaves the receiver as it is, and RX.RD sees nothing else. -/
theorem repeatedReadGivesTheSameResponse : Obligations.RepeatedReadGivesTheSameResponse := by
  unfold Obligations.RepeatedReadGivesTheSameResponse
  intro idx between s t u hbetween h hu
  have hsame : SameRx s u := ((effect_of_exec h).sameRx rfl).trans (sameRx_of_execAll hbetween hu)
  obtain ⟨st, res, rfl, hagain⟩ := exec_rxRd_of_sameRx hsame h
  exact ⟨responseWord st res, rfl, hagain⟩

end Sys2Proof.Machine

/-! ## Contents that never show (10_state.md section 5) -/

namespace Sys2Proof.Machine

/-- If `o` is a next state then `o'` is one that differs from it at most in what no operation reads. -/
def SameObservableNext (o o' : Host.Outcome State Fault Refusal) : Prop :=
  ∀ u, o = .next u → ∃ u', o' = .next u' ∧ SameObservable u u'

section
variable {s t : State}

theorem SameObservable.next (h : SameObservable s t) : SameObservableNext (.next s) (.next t) := by
  rintro u hu
  cases hu
  exact ⟨t, rfl, h⟩

/-! ### The shared updates keep the relation -/

theorem SameObservable.respond (h : SameObservable s t) (st : Status) (res : Half) :
    SameObservable (respond st res s) (respond st res t) := { h with
  responses := congrArg (· ++ [responseWord st res]) h.responses }

theorem SameObservable.complete (h : SameObservable s t) (res : Half) :
    SameObservableNext (complete res s) (complete res t) := (h.respond .ok res).next

theorem SameObservable.raise (h : SameObservable s t) (st : Status) :
    SameObservableNext (raise st s) (raise st t) := (h.respond st 0).next

theorem SameObservable.withInputs (h : SameObservable s t) (rest : List Input) :
    SameObservable { s with inputs := rest } { t with inputs := rest } := { h with inputs := rfl }

theorem SameObservable.withCrc (h : SameObservable s t) (c : Half) :
    SameObservable { s with crc := c } { t with crc := c } := { h with crc := rfl }

theorem SameObservable.emit (h : SameObservable s t) (ws : List Byte) :
    SameObservable (emit ws s) (emit ws t) := { h with
  txOut := congrArg (· ++ ws) h.txOut }

theorem SameObservable.clearTx (h : SameObservable s t) : SameObservable (clearTx s) (clearTx t) := { h with
  txLen := rfl
  txOvf := rfl
  txBuf := fun a ha => absurd ha (Nat.not_lt_zero a) }

theorem SameObservable.clearRx (h : SameObservable s t) : SameObservable (clearRx s) (clearRx t) := { h with
  rxLen := rfl
  rxPhase := rfl
  rxOvf := rfl
  rxBuf := fun a ha => absurd ha (Nat.not_lt_zero a)
  rxNib := fun _ hphase => nomatch hphase }

theorem SameObservable.applyReset (h : SameObservable s t) : SameObservable (applyReset s) (applyReset t) where
  crc := rfl
  txLen := rfl
  txOvf := rfl
  txOut := rfl
  rxLen := rfl
  rxState := rfl
  rxPhase := rfl
  rxOvf := rfl
  rxVerdict := rfl
  inputs := h.inputs
  responses := h.responses
  txBuf := fun _ _ => rfl
  rxBuf := fun _ _ => rfl
  rxNib := fun _ _ => rfl

/-! ### What is read below a fill level -/

theorem SameObservable.txBody (h : SameObservable s t) :
    t.txBuf.readPrefix t.txLen.toNat = s.txBuf.readPrefix s.txLen.toNat := by
  rw [← h.txLen]
  exact (Memory.readPrefix_congr h.txBuf).symm

theorem SameObservable.bodyLen (h : SameObservable s t) : bodyLen t = bodyLen s := by
  rw [Machine.bodyLen, Machine.bodyLen, h.rxLen]

theorem SameObservable.rxByte (h : SameObservable s t) {idx : Nat} (hidx : idx < Machine.bodyLen s) :
    t.rxBuf.read idx = s.rxBuf.read idx :=
  (h.rxBuf idx (Nat.lt_of_lt_of_le hidx (Nat.sub_le _ _))).symm

theorem crcVerdict_congr {m m' : Memory} {n : Nat} (hn : 2 ≤ n) (h : ∀ a < n, m.read a = m'.read a) :
    crcVerdict m n = crcVerdict m' n := by
  have hbody : m.readPrefix (n - 2) = m'.readPrefix (n - 2) := Memory.readPrefix_congr fun a ha => h a (by omega)
  rw [crcVerdict, crcVerdict, hbody, h (n - 2) (by omega), h (n - 1) (by omega)]

theorem SameObservable.verdictAtEtx (h : SameObservable s t) : verdictAtEtx t = verdictAtEtx s := by
  rw [Machine.verdictAtEtx, Machine.verdictAtEtx, ← h.rxOvf, ← h.rxPhase, ← h.rxLen]
  split
  · rfl
  · split
    · rfl
    · next hwhole =>
      have hlen : 3 ≤ s.rxLen.toNat := Nat.not_lt.mp (not_or.mp hwhole).2
      exact (crcVerdict_congr (by omega) h.rxBuf).symm

/-! ### What is stored at a fill level -/

/-- Buffers that agree below a level agree below the next one when the same byte is written there. -/
theorem Memory.read_write_congr {m m' : Memory} {n : Nat} (b : Byte) (h : ∀ a < n, m.read a = m'.read a) :
    ∀ a < n + 1, (m.write n b).read a = (m'.write n b).read a := by
  intro a ha
  rw [Memory.read_write, Memory.read_write]
  split
  · rfl
  · exact h a (by omega)

theorem toNat_add_one_le {w : Nat} (n : BitVec w) : (n + 1#w).toNat ≤ n.toNat + 1 := by
  rw [BitVec.toNat_add, BitVec.toNat_ofNat]
  exact (Nat.mod_le _ _).trans (Nat.add_le_add_left (Nat.mod_le _ _) _)

theorem SameObservable.putByte (h : SameObservable s t) (b : Byte) :
    SameObservable { s with txBuf := s.txBuf.write s.txLen.toNat b, txLen := s.txLen + 1 }
      { t with txBuf := t.txBuf.write t.txLen.toNat b, txLen := t.txLen + 1 } := { h with
  txLen := congrArg (· + 1) h.txLen
  txBuf := fun a ha => by
    rw [← h.txLen]
    exact Memory.read_write_congr b h.txBuf a (Nat.lt_of_lt_of_le ha (toNat_add_one_le s.txLen)) }

theorem SameObservable.storeByte (h : SameObservable s t) {b b' : Byte} (hb : b = b') :
    SameObservable { s with rxPhase := false, rxBuf := s.rxBuf.write s.rxLen.toNat b, rxLen := s.rxLen + 1 }
      { t with rxPhase := false, rxBuf := t.rxBuf.write t.rxLen.toNat b', rxLen := t.rxLen + 1 } := { h with
  rxPhase := rfl
  rxLen := congrArg (· + 1) h.rxLen
  rxBuf := fun a ha => by
    rw [← h.rxLen, ← hb]
    exact Memory.read_write_congr b h.rxBuf a (Nat.lt_of_lt_of_le ha (toNat_add_one_le s.rxLen))
  rxNib := fun _ hphase => nomatch hphase }

/-! ### Every operation keeps the relation -/

theorem execTxPut_sameObservable (h : SameObservable s t) (b : Byte) :
    SameObservableNext (execTxPut b s) (execTxPut b t) := by
  by_cases hroom : s.txLen.toNat < Config.txBufBytes
  · rw [execTxPut, execTxPut, if_pos hroom, if_pos (h.txLen ▸ hroom)]
    exact (h.putByte b).complete 0
  · rw [execTxPut, execTxPut, if_neg hroom, if_neg (h.txLen ▸ hroom)]
    have hset : SameObservable { s with txOvf := true } { t with txOvf := true } := { h with txOvf := rfl }
    exact hset.raise .paramsTooLong

theorem execTxSend_sameObservable (h : SameObservable s t) : SameObservableNext (execTxSend s) (execTxSend t) := by
  rw [execTxSend, execTxSend, h.txBody, ← h.txOvf, ← h.txLen]
  split
  · exact h.clearTx.raise .paramsTooLong
  · split
    · exact h.raise .txEmpty
    · cases s.txBuf.readPrefix s.txLen.toNat with
      | ok body => exact (h.emit (frameBytes body)).clearTx.complete _
      | error a => exact fun _ hu => nomatch hu

theorem txStatWord_sameObservable (h : SameObservable s t) : txStatWord t = txStatWord s := by
  rw [txStatWord, txStatWord, h.txOvf, h.txLen]

theorem rxStatWord_sameObservable (h : SameObservable s t) : rxStatWord t = rxStatWord s := by
  rw [rxStatWord, rxStatWord, h.rxVerdict, h.rxOvf, h.rxPhase, h.rxState]

theorem execRxLen_sameObservable (h : SameObservable s t) : SameObservableNext (execRxLen s) (execRxLen t) := by
  rw [execRxLen, execRxLen, h.bodyLen, ← h.rxState, ← h.rxVerdict]
  split
  · exact h.raise _
  · split
    · exact h.raise _
    · exact h.complete _

theorem execRxRd_sameObservable (h : SameObservable s t) (idx : Nat) :
    SameObservableNext (execRxRd idx s) (execRxRd idx t) := by
  rw [execRxRd, execRxRd, h.bodyLen, ← h.rxState, ← h.rxVerdict]
  split
  · exact h.raise _
  · split
    · exact h.raise _
    · split
      · exact h.raise _
      · next hidx =>
        rw [h.rxByte (Nat.not_le.mp hidx)]
        cases s.rxBuf.read idx with
        | some b => exact h.complete _
        | none => exact fun _ hu => nomatch hu

theorem takeChar_sameObservable (h : SameObservable s t) (hbody : s.rxState = .body) (c : Byte) :
    SameObservable (takeChar c s) (takeChar c t) := by
  cases hphase : s.rxPhase with
  | false =>
    rw [takeChar_of_first c hphase, takeChar_of_first c (h.rxPhase ▸ hphase)]
    exact { h with rxPhase := rfl, rxNib := fun _ _ => rfl }
  | true =>
    rcases Nat.lt_or_ge s.rxLen.toNat Config.rxBufBytes with hroom | hfull
    · rw [takeChar_of_room c hphase hroom, takeChar_of_room c (h.rxPhase ▸ hphase) (h.rxLen ▸ hroom)]
      exact h.storeByte (congrArg (· ++ hex2nib c) (h.rxNib hbody hphase))
    · rw [takeChar_of_full c hphase hfull, takeChar_of_full c (h.rxPhase ▸ hphase) (h.rxLen ▸ hfull)]
      exact { h with rxPhase := rfl, rxOvf := rfl, rxNib := fun _ hphase => nomatch hphase }

theorem endFrame_sameObservable (h : SameObservable s t) : SameObservableNext (endFrame s) (endFrame t) := by
  rw [endFrame, endFrame, h.verdictAtEtx]
  cases verdictAtEtx s with
  | ok v => exact SameObservable.next { h with rxVerdict := rfl, rxState := rfl, rxNib := fun hbody => nomatch hbody }
  | error a => exact fun _ hu => nomatch hu

theorem exec_lineRx_sameObservable (h : SameObservable s t) (c : Byte) :
    SameObservableNext (exec (.lineRx c) s) (exec (.lineRx c) t) := by
  cases hstate : s.rxState with
  | hunt =>
    rw [exec_lineRx_of_hunt c hstate, exec_lineRx_of_hunt c (h.rxState ▸ hstate)]
    split
    · exact SameObservable.next { h.clearRx with rxState := rfl, rxNib := fun _ hphase => nomatch hphase }
    · exact h.next
  | body =>
    rw [exec_lineRx_of_body c hstate, exec_lineRx_of_body c (h.rxState ▸ hstate)]
    split
    · exact h.clearRx.next
    · split
      · exact endFrame_sameObservable h
      · exact (takeChar_sameObservable h hstate c).next
  | done =>
    rw [exec_lineRx_of_done c hstate, exec_lineRx_of_done c (h.rxState ▸ hstate)]
    exact h.next

theorem exec_lineTmo_sameObservable (h : SameObservable s t) :
    SameObservableNext (exec .lineTmo s) (exec .lineTmo t) := by
  by_cases hdone : s.rxState = .done
  · rw [exec_lineTmo_of_done hdone, exec_lineTmo_of_done (h.rxState ▸ hdone)]
    exact h.next
  · rw [exec_lineTmo_of_not_done hdone, exec_lineTmo_of_not_done (h.rxState ▸ hdone)]
    exact SameObservable.next { h.clearRx with rxState := rfl, rxVerdict := rfl, rxNib := fun hbody => nomatch hbody }

theorem exec_sameObservable (h : SameObservable s t) (i : Instr) : SameObservableNext (exec i s) (exec i t) := by
  cases i with
  | crcLoad v => exact (h.withCrc v).complete 0
  | crcUpd b =>
    rw [exec_crcUpd, exec_crcUpd, ← h.crc]
    exact (h.withCrc _).complete 0
  | crcRd =>
    rw [exec_crcRd, exec_crcRd, ← h.crc]
    exact h.complete _
  | hexEnc | hexDec => exact h.complete _
  | txClr => exact h.clearTx.complete 0
  | txPut b => exact execTxPut_sameObservable h b
  | txSend => exact execTxSend_sameObservable h
  | txStat =>
    rw [exec_txStat, exec_txStat, txStatWord_sameObservable h]
    exact h.complete _
  | rxStat =>
    rw [exec_rxStat, exec_rxStat, rxStatWord_sameObservable h]
    exact h.complete _
  | rxLen => exact execRxLen_sameObservable h
  | rxRd idx => exact execRxRd_sameObservable h idx
  | rxClr =>
    have hcleared : SameObservable { clearRx s with rxState := .hunt, rxVerdict := .ok }
        { clearRx t with rxState := .hunt, rxVerdict := .ok } :=
      { h.clearRx with rxState := rfl, rxVerdict := rfl, rxNib := fun hbody => nomatch hbody }
    exact hcleared.complete 0
  | lineRx c => exact exec_lineRx_sameObservable h c
  | lineTmo => exact exec_lineTmo_sameObservable h

theorem step_sameObservable (h : SameObservable s t) : SameObservableNext (step s) (step t) := by
  cases hin : s.inputs with
  | nil =>
    rw [step, takeInput_nil hin, step, takeInput_nil (h.inputs ▸ hin)]
    exact h.next
  | cons input rest =>
    have hin' : t.inputs = input :: rest := h.inputs ▸ hin
    cases input with
    | reset =>
      rw [step_of_reset hin, step_of_reset hin']
      exact (h.withInputs rest).applyReset.next
    | op p =>
      cases hp : decode p with
      | ok i =>
        rw [step_of_decode_ok hin hp, step_of_decode_ok hin' hp]
        exact exec_sameObservable (h.withInputs rest) i
      | error e =>
        rw [step_of_decode_error hin hp, step_of_decode_error hin' hp]
        exact ((h.withInputs rest).respond _ _).next

end

theorem exists_of_runSteps_succ {n : Nat} {s u : State} (h : runSteps (n + 1) s = .next u) :
    ∃ t, step s = .next t ∧ runSteps n t = .next u := by
  cases hs : step s with
  | next t => exact ⟨t, rfl, (runSteps_succ_of_next hs).symm.trans h⟩
  | fault r => cases (runSteps_succ_of_fault hs).symm.trans h
  | refused r => cases (runSteps_succ_of_refused hs).symm.trans h

/-- Settles O47: every update of the state keeps the relation, and no branch depends on the rest; then by
induction on the number of steps. -/
theorem unobservableContentsNeverShow : Obligations.UnobservableContentsNeverShow := by
  unfold Obligations.UnobservableContentsNeverShow
  intro n s t s' h hrun
  induction n generalizing s t with
  | zero =>
    cases hrun
    exact ⟨t, rfl, h⟩
  | succ n ih =>
    obtain ⟨u, hu, hrest⟩ := exists_of_runSteps_succ hrun
    obtain ⟨u', hu', huu'⟩ := step_sameObservable h u hu
    rw [runSteps_succ_of_next hu']
    exact ih u u' huu' hrest

/-- Settles O54: after the two clears both fill levels are 0 and the receiver is as after reset, so only unobservable contents
differ. -/
theorem clearsRestoreTheBehaviourAfterReset : Obligations.ClearsRestoreTheBehaviourAfterReset := by
  unfold Obligations.ClearsRestoreTheBehaviourAfterReset
  intro s
  refine ⟨_, rfl, fun n v hrun => unobservableContentsNeverShow n _ _ v ?_ hrun⟩
  exact sameObservable_of_empty rfl rfl rfl [] [] 0

end Sys2Proof.Machine

/-! ## What each unit does not read (20_memory.md section 4) -/

namespace Sys2Proof.Machine

section
variable {f : State → State} {i : Instr} {s t : State}

theorem commutes_of_next (h : exec i s = .next t) (hf : exec i (f s) = .next (f t)) :
    exec i (f s) = mapNext f (exec i s) := by
  rw [h, hf, mapNext_next]

theorem commutes_of_fault {r : Fault} (h : exec i s = .fault r) (hf : exec i (f s) = .fault r) :
    exec i (f s) = mapNext f (exec i s) := by
  rw [h, hf, mapNext_fault]

end

/-! ### The TX commands under a change of `CRC` and the RX deframer -/

/-- A change of `CRC` and of the RX deframer's state, each field in its own way. -/
structure OutsideTx where
  crc : Half → Half := id
  rxBuf : Memory → Memory := id
  rxLen : BitVec 16 → BitVec 16 := id
  rxState : RxState → RxState := id
  rxPhase : Bool → Bool := id
  rxNib : Nibble → Nibble := id
  rxOvf : Bool → Bool := id
  rxVerdict : Status → Status := id

/-- The change, made. -/
def OutsideTx.map (g : OutsideTx) (s : State) : State :=
  { s with
    crc := g.crc s.crc
    rxBuf := g.rxBuf s.rxBuf
    rxLen := g.rxLen s.rxLen
    rxState := g.rxState s.rxState
    rxPhase := g.rxPhase s.rxPhase
    rxNib := g.rxNib s.rxNib
    rxOvf := g.rxOvf s.rxOvf
    rxVerdict := g.rxVerdict s.rxVerdict }

theorem exec_txSend_of_unwritten {s : State} {a : Nat} (hovf : s.txOvf = false) (hlen : s.txLen ≠ 0)
    (hbody : s.txBuf.readPrefix s.txLen.toNat = .error a) : exec .txSend s = .fault (.unwrittenByte .txBuf a) := by
  rw [exec, execTxSend, if_neg (ne_true_of_eq_false hovf), if_neg hlen, hbody]

section
variable (g : OutsideTx) (s : State)

theorem exec_txPut_outsideTx (b : Byte) : exec (.txPut b) (g.map s) = mapNext g.map (exec (.txPut b) s) := by
  rcases Nat.lt_or_ge s.txLen.toNat Config.txBufBytes with hroom | hfull
  · exact commutes_of_next (exec_txPut_of_room b hroom) (exec_txPut_of_room (s := g.map s) b hroom)
  · exact commutes_of_next (exec_txPut_of_full b hfull) (exec_txPut_of_full (s := g.map s) b hfull)

theorem exec_txSend_outsideTx : exec .txSend (g.map s) = mapNext g.map (exec .txSend s) := by
  cases hovf : s.txOvf with
  | true => exact commutes_of_next (exec_txSend_of_overflow hovf) (exec_txSend_of_overflow (s := g.map s) hovf)
  | false =>
    by_cases hlen : s.txLen = 0
    · exact commutes_of_next (exec_txSend_of_empty hovf hlen) (exec_txSend_of_empty (s := g.map s) hovf hlen)
    · cases hbody : s.txBuf.readPrefix s.txLen.toNat with
      | ok body =>
        exact commutes_of_next (exec_txSend_of_body hovf hlen hbody)
          (exec_txSend_of_body (s := g.map s) hovf hlen hbody)
      | error a =>
        exact commutes_of_fault (exec_txSend_of_unwritten hovf hlen hbody)
          (exec_txSend_of_unwritten (s := g.map s) hovf hlen hbody)

theorem exec_outsideTx {i : Instr} (hi : ofTx i = true) : exec i (g.map s) = mapNext g.map (exec i s) := by
  cases i with
  | txClr | txStat => rfl
  | txPut b => exact exec_txPut_outsideTx g s b
  | txSend => exact exec_txSend_outsideTx g s
  | _ => cases hi

end

/-! ### The RX commands and line events under a change of `CRC` and the TX framer -/

/-- A change of `CRC` and of the TX framer's state, each field in its own way. -/
structure OutsideRx where
  crc : Half → Half := id
  txBuf : Memory → Memory := id
  txLen : BitVec 8 → BitVec 8 := id
  txOvf : Bool → Bool := id
  txOut : List Byte → List Byte := id

/-- The change, made. -/
def OutsideRx.map (g : OutsideRx) (s : State) : State :=
  { s with
    crc := g.crc s.crc
    txBuf := g.txBuf s.txBuf
    txLen := g.txLen s.txLen
    txOvf := g.txOvf s.txOvf
    txOut := g.txOut s.txOut }

section
variable (g : OutsideRx) (s : State)

theorem exec_rxLen_outsideRx : exec .rxLen (g.map s) = mapNext g.map (exec .rxLen s) := by
  by_cases hdone : s.rxState = .done
  · by_cases hv : s.rxVerdict = .ok
    · exact commutes_of_next (exec_rxLen_of_ok hdone hv) (exec_rxLen_of_ok (s := g.map s) hdone hv)
    · exact commutes_of_next (exec_rxLen_of_failed hdone hv) (exec_rxLen_of_failed (s := g.map s) hdone hv)
  · exact commutes_of_next (exec_rxLen_of_not_done hdone) (exec_rxLen_of_not_done (s := g.map s) hdone)

theorem exec_rxRd_outsideRx (idx : Nat) : exec (.rxRd idx) (g.map s) = mapNext g.map (exec (.rxRd idx) s) := by
  by_cases hdone : s.rxState = .done
  · by_cases hv : s.rxVerdict = .ok
    · rcases Nat.lt_or_ge idx (bodyLen s) with hidx | hidx
      · cases hb : s.rxBuf.read idx with
        | some b =>
          exact commutes_of_next (exec_rxRd_of_byte hdone hv hidx hb)
            (exec_rxRd_of_byte (s := g.map s) hdone hv hidx hb)
        | none =>
          exact commutes_of_fault (exec_rxRd_of_unwritten hdone hv hidx hb)
            (exec_rxRd_of_unwritten (s := g.map s) hdone hv hidx hb)
      · exact commutes_of_next (exec_rxRd_of_beyond hdone hv hidx) (exec_rxRd_of_beyond (s := g.map s) hdone hv hidx)
    · exact commutes_of_next (exec_rxRd_of_failed idx hdone hv) (exec_rxRd_of_failed (s := g.map s) idx hdone hv)
  · exact commutes_of_next (exec_rxRd_of_not_done idx hdone) (exec_rxRd_of_not_done (s := g.map s) idx hdone)

theorem takeChar_outsideRx (c : Byte) : takeChar c (g.map s) = g.map (takeChar c s) := by
  cases hphase : s.rxPhase with
  | false =>
    rw [takeChar_of_first c hphase]
    exact takeChar_of_first c hphase
  | true =>
    rcases Nat.lt_or_ge s.rxLen.toNat Config.rxBufBytes with hroom | hfull
    · rw [takeChar_of_room c hphase hroom]
      exact takeChar_of_room c hphase hroom
    · rw [takeChar_of_full c hphase hfull]
      exact takeChar_of_full c hphase hfull

theorem endFrame_outsideRx : endFrame (g.map s) = mapNext g.map (endFrame s) := by
  have hverdict : verdictAtEtx (g.map s) = verdictAtEtx s := rfl
  rw [endFrame, endFrame, hverdict]
  cases verdictAtEtx s <;> rfl

theorem exec_lineRx_outsideRx (c : Byte) : exec (.lineRx c) (g.map s) = mapNext g.map (exec (.lineRx c) s) := by
  cases hstate : s.rxState with
  | hunt =>
    rw [exec_lineRx_of_hunt c hstate, exec_lineRx_of_hunt (s := g.map s) c hstate, apply_ite (mapNext g.map)]
    rfl
  | body =>
    rw [exec_lineRx_of_body c hstate, exec_lineRx_of_body (s := g.map s) c hstate, apply_ite (mapNext g.map),
      apply_ite (mapNext g.map), endFrame_outsideRx, takeChar_outsideRx]
    rfl
  | done => exact commutes_of_next (exec_lineRx_of_done c hstate) (exec_lineRx_of_done (s := g.map s) c hstate)

theorem exec_lineTmo_outsideRx : exec .lineTmo (g.map s) = mapNext g.map (exec .lineTmo s) := by
  by_cases hdone : s.rxState = .done
  · exact commutes_of_next (exec_lineTmo_of_done hdone) (exec_lineTmo_of_done (s := g.map s) hdone)
  · exact commutes_of_next (exec_lineTmo_of_not_done hdone) (exec_lineTmo_of_not_done (s := g.map s) hdone)

theorem exec_outsideRx {i : Instr} (hi : usesRx i = true) : exec i (g.map s) = mapNext g.map (exec i s) := by
  cases i with
  | rxStat | rxClr => rfl
  | rxLen => exact exec_rxLen_outsideRx g s
  | rxRd idx => exact exec_rxRd_outsideRx g s idx
  | lineRx c => exact exec_lineRx_outsideRx g s c
  | lineTmo => exact exec_lineTmo_outsideRx g s
  | _ => cases hi

end

/-- Settles O49: another value in `CRC` is a change outside the TX framer and outside the RX deframer. -/
theorem otherOperationsIgnoreTheCrcRegister : Obligations.OtherOperationsIgnoreTheCrcRegister := by
  unfold Obligations.OtherOperationsIgnoreTheCrcRegister
  intro i s c hi
  cases i with
  | crcLoad | crcUpd | crcRd => cases hi
  | hexEnc | hexDec => rfl
  | txClr | txPut | txSend | txStat => exact exec_outsideTx { crc := fun _ => c } s rfl
  | rxStat | rxLen | rxRd | rxClr | lineRx | lineTmo => exact exec_outsideRx { crc := fun _ => c } s rfl

/-- The TX framer's state of `u` in the place of any other. -/
def OutsideRx.ofTx (u : State) : OutsideRx where
  txBuf _ := u.txBuf
  txLen _ := u.txLen
  txOvf _ := u.txOvf
  txOut _ := u.txOut

/-- The RX deframer's state of `u` in the place of any other. -/
def OutsideTx.ofRx (u : State) : OutsideTx where
  rxBuf _ := u.rxBuf
  rxLen _ := u.rxLen
  rxState _ := u.rxState
  rxPhase _ := u.rxPhase
  rxNib _ := u.rxNib
  rxOvf _ := u.rxOvf
  rxVerdict _ := u.rxVerdict

/-- Settles O50: the other framer's state is a change outside an operation's own; the CRC and hex commands have no branch. -/
theorem otherOperationsIgnoreTheFramers : Obligations.OtherOperationsIgnoreTheFramers := by
  unfold Obligations.OtherOperationsIgnoreTheFramers
  refine ⟨fun i s u hi => ?tx, fun i s u hi => ?rx⟩
  case tx =>
    cases i with
    | crcLoad | crcUpd | crcRd | hexEnc | hexDec => rfl
    | txClr | txPut | txSend | txStat => cases hi
    | rxStat | rxLen | rxRd | rxClr | lineRx | lineTmo => exact exec_outsideRx (OutsideRx.ofTx u) s rfl
  case rx =>
    cases i with
    | crcLoad | crcUpd | crcRd | hexEnc | hexDec => rfl
    | txClr | txPut | txSend | txStat => exact exec_outsideTx (OutsideTx.ofRx u) s rfl
    | rxStat | rxLen | rxRd | rxClr | lineRx | lineTmo => cases hi

end Sys2Proof.Machine

/-! ## The single step (log entries 1, 2, 4) -/

namespace Sys2Proof.Machine

/-- Settles O6. -/
theorem stepRunsTheDecodedInstruction : Obligations.StepRunsTheDecodedInstruction := by
  unfold Obligations.StepRunsTheDecodedInstruction
  exact fun p i s rest hp hi => step_of_decode_ok hp hi

/-- Settles O7: with no input taken the step is over. -/
theorem nothingPresentedNothingHappens : Obligations.NothingPresentedNothingHappens := by
  unfold Obligations.NothingPresentedNothingHappens
  intro s hin
  rw [step, takeInput_nil hin]

/-- Settles O43: `applyReset` keeps the two lists, and `State.reset` has nothing written. -/
theorem resetLeavesOnlyWhatTheEnvironmentHolds : Obligations.ResetLeavesOnlyWhatTheEnvironmentHolds := by
  unfold Obligations.ResetLeavesOnlyWhatTheEnvironmentHolds
  exact ⟨fun s rest hreset => step_of_reset hreset, fun a => ⟨Memory.read_nil a, Memory.read_nil a⟩, rfl, rfl⟩

/-! ## Operations presented one after the other (30_encoding.md R59) -/

/-- A run on presented operations goes on from the effect of the first. -/
theorem runSteps_presented_cons {n : Nat} {i : Instr} {is : List Instr} {s t : State} {rest : List Input}
    (hin : s.inputs = presented (i :: is) ++ rest) (hi : i.wellFormed = true)
    (h : exec i { s with inputs := presented is ++ rest } = .next t) : runSteps (n + 1) s = runSteps n t :=
  runSteps_succ_of_next ((step_of_decode_ok hin (decodeOfEncodeIsTheInstruction i hi)).trans h)

/-! ### CRC16 -/

/-- CRC.UPD of each byte and CRC.RD, from whatever stands in `CRC`. -/
theorem runSteps_crcUpd_crcRd (bs : List Byte) (s : State) (rest : List Input)
    (hin : s.inputs = presented (bs.map .crcUpd ++ [.crcRd]) ++ rest) :
    runSteps (bs.length + 1) s = .next { s with
      crc := crc16 bs s.crc
      inputs := rest
      responses := s.responses ++ List.replicate bs.length (responseWord .ok 0) ++
        [responseWord .ok (crc16 bs s.crc)] } := by
  induction bs generalizing s with
  | nil =>
    rw [List.length_nil, runSteps_presented_cons hin rfl (exec_crcRd _)]
    simp [respond, presented]
  | cons b bs ih =>
    rw [List.length_cons, runSteps_presented_cons hin rfl (exec_crcUpd b _), ih _ rfl]
    simp [List.replicate_succ]

/-- Settles O15: CRC.LOAD, then the bytes one by one. -/
theorem crcPseudoOperationReturnsTheChecksum : Obligations.CrcPseudoOperationReturnsTheChecksum := by
  unfold Obligations.CrcPseudoOperationReturnsTheChecksum
  intro bs s rest hin
  rw [runSteps_presented_cons hin rfl (exec_crcLoad 0xFFFF _), runSteps_crcUpd_crcRd bs _ rest rfl]
  simp [List.replicate_succ]

/-! ### TX.FRAME -/

/-- TX.PUT of each byte, as long as there is room. -/
theorem runSteps_txPut (bs : List Byte) {s : State} {pre : List Byte} {is : List Instr} {rest : List Input}
    (hin : s.inputs = presented (bs.map .txPut ++ is) ++ rest)
    (hpre : s.txBuf.readPrefix s.txLen.toNat = .ok pre) (hroom : s.txLen.toNat + bs.length ≤ Config.txBufBytes) :
    ∃ m n, runSteps bs.length s = .next { s with
      txBuf := m
      txLen := n
      inputs := presented is ++ rest
      responses := s.responses ++ List.replicate bs.length (responseWord .ok 0) } ∧
      m.readPrefix n.toNat = .ok (pre ++ bs) := by
  induction bs generalizing s pre with
  | nil =>
    have hinputs : presented is ++ rest = s.inputs := hin.symm
    exact ⟨s.txBuf, s.txLen, by simp [hinputs], by simpa using hpre⟩
  | cons b bs ih =>
    rw [List.length_cons] at hroom
    have hlen : (s.txLen + 1).toNat = s.txLen.toNat + 1 := by
      rw [Config.txBufBytes_eq] at hroom
      bv_omega
    have hput := exec_txPut_of_room b (s := { s with inputs := presented (bs.map .txPut ++ is) ++ rest })
      (show s.txLen.toNat < Config.txBufBytes by omega)
    have hpre' := Memory.readPrefix_write b hpre
    rw [← hlen] at hpre'
    obtain ⟨m, n, hrun, hread⟩ := ih
      (s := respond .ok 0 { s with
        txBuf := s.txBuf.write s.txLen.toNat b
        txLen := s.txLen + 1
        inputs := presented (bs.map .txPut ++ is) ++ rest })
      rfl hpre' (show (s.txLen + 1).toNat + bs.length ≤ Config.txBufBytes by omega)
    rw [List.length_cons, runSteps_presented_cons hin rfl hput]
    exact ⟨m, n, hrun.trans (by simp [List.replicate_succ]), by simpa using hread⟩

/-- TX.SEND of a whole body as the last word. -/
theorem runSteps_txSend {s : State} {body : List Byte} {rest : List Input}
    (hin : s.inputs = presented [.txSend] ++ rest) (hovf : s.txOvf = false) (hne : body ≠ [])
    (hbody : s.txBuf.readPrefix s.txLen.toNat = .ok body) :
    runSteps 1 s = .next { s with
      txOut := s.txOut ++ frameBytes body
      txLen := 0
      txOvf := false
      inputs := rest
      responses := s.responses ++ [responseWord .ok (BitVec.ofNat 16 (2 * body.length + 6))] } := by
  have hsend := exec_txSend_of_body (s := { s with inputs := rest }) hovf (txLen_ne_zero_of_readPrefix hne hbody) hbody
  rw [runSteps_presented_cons (is := []) hin rfl hsend, Memory.readPrefix_length hbody]
  rfl

/-- Settles O28: TX.CLR empties the buffer, 195 bytes fit, and TX.SEND finds them in order. -/
theorem txFramePseudoOperationSendsTheFrame : Obligations.TxFramePseudoOperationSendsTheFrame := by
  unfold Obligations.TxFramePseudoOperationSendsTheFrame
  intro op params s rest hparams hin
  have hclr := exec_txClr { s with inputs := presented ((op :: params).map .txPut ++ [.txSend]) ++ rest }
  have hroom : 0 + (op :: params).length ≤ Config.txBufBytes := by
    rw [Config.txBufBytes_eq, List.length_cons]
    omega
  obtain ⟨m, n, hput, hread⟩ := runSteps_txPut (op :: params)
    (s := respond .ok 0 (clearTx { s with inputs := presented ((op :: params).map .txPut ++ [.txSend]) ++ rest }))
    rfl (Memory.readPrefix_zero _) hroom
  have hrun := runSteps_presented_cons hin rfl hclr |>.trans (runSteps_add (n := 1) hput) |>.trans
    (runSteps_txSend rfl rfl (List.cons_ne_nil op params) hread)
  refine ⟨_, hrun, rfl, rfl, rfl, ?responses, rfl, rfl, ⟨rfl, rfl, rfl, rfl, rfl, rfl, rfl⟩⟩
  case responses => simp [List.replicate_succ, Nat.mul_add]

end Sys2Proof.Machine

/-! ## Frames as they are sent and received (42_tx_framer.md section 3, 43_rx_deframer.md section 4) -/

namespace Sys2Proof.Machine

theorem exists_nib2hex_of_mem_bytesToHex {bs : List Byte} {c : Byte} (hc : c ∈ bytesToHex bs) :
    ∃ n, c = nib2hex n := by
  induction bs with
  | nil => cases hc
  | cons b bs ih =>
    rw [bytesToHex, List.mem_cons, List.mem_cons] at hc
    rcases hc with rfl | rfl | hc
    · exact ⟨_, rfl⟩
    · exact ⟨_, rfl⟩
    · exact ih hc

theorem isHexChar_of_mem_bytesToHex {bs : List Byte} {c : Byte} (hc : c ∈ bytesToHex bs) : isHexChar c := by
  obtain ⟨n, rfl⟩ := exists_nib2hex_of_mem_bytesToHex hc
  exact isHexChar_nib2hex n

/-- A proper character is no delimiter. -/
theorem ne_delimiter_of_isHexChar {c : Byte} (hc : isHexChar c) : c ≠ Config.stx ∧ c ≠ Config.etx := by
  constructor <;>
  · rintro rfl
    exact absurd hc (by unfold isHexChar; decide)

/-- Settles O26: between the delimiters stands the encoding of the body and its CRC. -/
theorem everyFrameIsWellFormed : Obligations.EveryFrameIsWellFormed := by
  unfold Obligations.EveryFrameIsWellFormed
  intro body hne
  have hlength : (bytesToHex (framedBytes body)).length = 2 * (body.length + 2) := by
    rw [bytesToHex_length, framedBytes_length]
  have hpos : 0 < body.length := List.length_pos_of_ne_nil hne
  refine ⟨bytesToHex (framedBytes body), frameBytes_eq body, by omega, by omega, fun c hc => ?_,
    hexToBytes_bytesToHex _⟩
  have hhex := isHexChar_of_mem_bytesToHex hc
  exact ⟨hhex, ne_delimiter_of_isHexChar hhex⟩

/-! ### Receiving characters -/

theorem runSteps_lineString_cons {n : Nat} {c : Byte} {ws : List Byte} {s t : State} {rest : List Input}
    (hin : s.inputs = lineString (c :: ws) ++ rest)
    (h : exec (.lineRx c) { s with inputs := lineString ws ++ rest } = .next t) :
    runSteps (n + 1) s = runSteps n t :=
  runSteps_succ_of_next ((step_of_decode_ok hin rfl).trans h)

/-- Two characters in BODY store the byte they stand for. -/
theorem runSteps_charPair {n : Nat} {hi lo : Byte} {ws : List Byte} {s : State} {rest : List Input}
    (hin : s.inputs = lineString (hi :: lo :: ws) ++ rest) (hbody : s.rxState = .body) (hphase : s.rxPhase = false)
    (hroom : s.rxLen.toNat < Config.rxBufBytes) (hhi : hi ≠ Config.stx ∧ hi ≠ Config.etx)
    (hlo : lo ≠ Config.stx ∧ lo ≠ Config.etx) :
    runSteps (n + 2) s = runSteps n { s with
      rxBuf := s.rxBuf.write s.rxLen.toNat (byteOfNibbles (hex2nib hi) (hex2nib lo))
      rxLen := s.rxLen + 1
      rxPhase := false
      rxNib := hex2nib hi
      inputs := lineString ws ++ rest } := by
  obtain ⟨hkeep, hstore, -⟩ := lineRxCharacterFormsBytes
  have hfirst := hkeep hi { s with inputs := lineString (lo :: ws) ++ rest } hbody hhi.1 hhi.2 hphase
  have hsecond := hstore lo { s with inputs := lineString ws ++ rest, rxNib := hex2nib hi, rxPhase := true } hbody
    hlo.1 hlo.2 rfl hroom
  rw [runSteps_lineString_cons hin hfirst, runSteps_lineString_cons rfl hsecond, byteOfNibbles_eq_append]

/-- Characters in BODY, an even number, store the bytes they decode to. -/
theorem runSteps_chars {ws bs : List Byte} (hws : hexToBytes ws = some bs)
    (hchars : ∀ c ∈ ws, c ≠ Config.stx ∧ c ≠ Config.etx) {s : State} {pre more : List Byte} {rest : List Input}
    (hin : s.inputs = lineString (ws ++ more) ++ rest) (hbody : s.rxState = .body) (hphase : s.rxPhase = false)
    (hpre : s.rxBuf.readPrefix s.rxLen.toNat = .ok pre) (hroom : s.rxLen.toNat + bs.length ≤ Config.rxBufBytes) :
    ∃ m n nib, runSteps ws.length s = .next { s with
      rxBuf := m
      rxLen := n
      rxPhase := false
      rxNib := nib
      inputs := lineString more ++ rest } ∧ m.readPrefix n.toNat = .ok (pre ++ bs) := by
  induction ws using hexToBytes.induct generalizing bs s pre with
  | case1 =>
    cases hws
    have hinputs : lineString more ++ rest = s.inputs := hin.symm
    exact ⟨s.rxBuf, s.rxLen, s.rxNib, by simp [hinputs, ← hphase], by simpa using hpre⟩
  | case2 => cases hws
  | case3 hi lo ws hnone _ =>
    rw [hexToBytes, hnone] at hws
    cases hws
  | case4 hi lo ws bytes hsome ih =>
    rw [hexToBytes, hsome] at hws
    cases hws
    obtain ⟨hhi, hlo, hrest⟩ : (hi ≠ Config.stx ∧ hi ≠ Config.etx) ∧ (lo ≠ Config.stx ∧ lo ≠ Config.etx) ∧
        ∀ c ∈ ws, c ≠ Config.stx ∧ c ≠ Config.etx := by
      simpa only [List.forall_mem_cons] using hchars
    rw [List.length_cons] at hroom
    have hlen : (s.rxLen + 1).toNat = s.rxLen.toNat + 1 := by
      have hcap := Config.rxBufBytes_bounds.2
      bv_omega
    have hpre' := Memory.readPrefix_write (byteOfNibbles (hex2nib hi) (hex2nib lo)) hpre
    rw [← hlen] at hpre'
    obtain ⟨m, n, nib, hrun, hread⟩ := ih hsome hrest
      (s := { s with
        rxBuf := s.rxBuf.write s.rxLen.toNat (byteOfNibbles (hex2nib hi) (hex2nib lo))
        rxLen := s.rxLen + 1
        rxPhase := false
        rxNib := hex2nib hi
        inputs := lineString (ws ++ more) ++ rest })
      rfl hbody rfl hpre' (show (s.rxLen + 1).toNat + bytes.length ≤ Config.rxBufBytes by omega)
    exact ⟨m, n, nib, (runSteps_charPair hin hbody hphase (by omega) hhi hlo).trans hrun, by simpa using hread⟩

/-- ETX as the last byte, after a body and two more bytes. -/
theorem runSteps_etx {s : State} {body : List Byte} {lo hi : Byte} {rest : List Input}
    (hin : s.inputs = lineString [Config.etx] ++ rest) (hbody : s.rxState = .body) (hovf : s.rxOvf = false)
    (hphase : s.rxPhase = false) (hne : body ≠ []) (hread : s.rxBuf.readPrefix s.rxLen.toNat = .ok (body ++ [lo, hi])) :
    runSteps 1 s = .next { s with
      rxVerdict := if crc16 body 0xFFFF = hi ++ lo then .ok else .crcInvalid
      rxState := .done
      inputs := rest } := by
  obtain ⟨-, -, hlatch⟩ := lineRxEtxInBodyLatchesTheVerdict
  have hetx := hlatch { s with inputs := rest } body lo hi hbody hovf hphase hne hread
  exact (runSteps_lineString_cons (ws := []) hin hetx).trans (runSteps_zero _)

/-- A whole frame in HUNT: STX, characters that decode to a body and two more bytes, ETX. The verdict compares the two with
the CRC of the body. -/
theorem runSteps_frame {ws body : List Byte} {lo hi : Byte} (hws : hexToBytes ws = some (body ++ [lo, hi]))
    (hchars : ∀ c ∈ ws, c ≠ Config.stx ∧ c ≠ Config.etx) (hne : body ≠ [])
    (hroom : body.length + 2 ≤ Config.rxBufBytes) {s : State} {rest : List Input} (hhunt : s.rxState = .hunt)
    (hin : s.inputs = lineString (Config.stx :: (ws ++ [Config.etx])) ++ rest) :
    ∃ t, runSteps (ws.length + 2) s = .next t ∧ t.rxState = .done ∧
      t.rxVerdict = (if crc16 body 0xFFFF = hi ++ lo then .ok else .crcInvalid) ∧
      t.rxBuf.readPrefix t.rxLen.toNat = .ok (body ++ [lo, hi]) ∧ t.inputs = rest ∧ t.responses = s.responses := by
  have hstx := (exec_lineRx_of_hunt Config.stx (s := { s with inputs := lineString (ws ++ [Config.etx]) ++ rest })
    hhunt).trans (if_pos rfl)
  obtain ⟨m, n, nib, hrun, hread⟩ := runSteps_chars hws hchars
    (s := { clearRx { s with inputs := lineString (ws ++ [Config.etx]) ++ rest } with rxState := .body })
    rfl rfl rfl (Memory.readPrefix_zero _)
    (show 0 + (body ++ [lo, hi]).length ≤ Config.rxBufBytes by simpa using hroom)
  have hframe := runSteps_lineString_cons hin hstx |>.trans (runSteps_add (n := 1) hrun) |>.trans
    (runSteps_etx rfl rfl rfl rfl hne hread)
  exact ⟨_, hframe, rfl, rfl, hread, rfl, rfl⟩

/-- Settles O40: the interior of a frame decodes to the body and its own CRC. -/
theorem sentFrameIsReceivedUnchanged : Obligations.SentFrameIsReceivedUnchanged := by
  unfold Obligations.SentFrameIsReceivedUnchanged
  intro body s rest hne _ hroom hhunt hin
  rw [frameBytes_eq] at hin
  obtain ⟨t, hrun, hdone, hverdict, hread, hinputs, hresp⟩ := runSteps_frame (hexToBytes_bytesToHex (framedBytes body))
    (fun c hc => ne_delimiter_of_isHexChar (isHexChar_of_mem_bytesToHex hc)) hne hroom hhunt hin
  have hok : t.rxVerdict = .ok := by
    rw [hverdict]
    exact if_pos (append_bytes _).symm
  have hlen : t.rxLen.toNat = body.length + 2 := (Memory.readPrefix_length hread).symm.trans (by simp)
  have hlength : (frameBytes body).length = (bytesToHex (framedBytes body)).length + 2 := by simp [frameBytes_eq]
  refine ⟨t, hlength ▸ hrun, hdone, hok, hlen, hinputs, hresp, fun i hi => ?read⟩
  case read =>
    have hbyte : t.rxBuf.read i = some body[i] := by
      rw [Memory.read_of_readPrefix hread (by rw [List.length_append]; omega), List.getElem_append_left hi]
    exact exec_rxRd_of_byte hdone hok (show i < t.rxLen.toNat - 2 by omega) hbyte

/-! ### A changed character -/

theorem hexToBytes_cons_cons {hi lo : Byte} {ws bs : List Byte} (h : hexToBytes ws = some bs) :
    hexToBytes (hi :: lo :: ws) = some (byteOfNibbles (hex2nib hi) (hex2nib lo) :: bs) := by
  rw [hexToBytes, h]

theorem hex2nib_ne {n : Nibble} {c : Byte} (hc : isHexChar c) (h : nib2hex n ≠ c) : hex2nib c ≠ n := by
  rintro rfl
  exact h ((nib2hex_hex2nib_eq_iff c).mpr hc)

/-- Another proper character among those of a sequence of bytes changes exactly the byte it is half of. -/
theorem hexToBytes_set {bs : List Byte} {j : Nat} {c : Byte} (hj : j < (bytesToHex bs).length) (hc : isHexChar c)
    (hne : (bytesToHex bs)[j]? ≠ some c) :
    ∃ (i : Nat) (hi : i < bs.length) (b : Byte),
      hexToBytes ((bytesToHex bs).set j c) = some (bs.set i b) ∧ b ≠ bs[i] := by
  induction bs generalizing j with
  | nil => cases hj
  | cons b bs ih =>
    match j with
    | 0 =>
      have hnib : hex2nib c ≠ hiNibble b := hex2nib_ne hc (by simpa [bytesToHex] using hne)
      refine ⟨0, Nat.zero_lt_succ _, _, hexToBytes_cons_cons (hexToBytes_bytesToHex bs), fun h => hnib ?_⟩
      simpa using congrArg hiNibble h
    | 1 =>
      have hnib : hex2nib c ≠ loNibble b := hex2nib_ne hc (by simpa [bytesToHex] using hne)
      refine ⟨0, Nat.zero_lt_succ _, _, hexToBytes_cons_cons (hexToBytes_bytesToHex bs), fun h => hnib ?_⟩
      simpa using congrArg loNibble h
    | j + 2 =>
      obtain ⟨i, hi, b', hset, hb'⟩ := ih (j := j) (by simpa [bytesToHex] using hj) (by simpa [bytesToHex] using hne)
      refine ⟨i + 1, Nat.succ_lt_succ hi, b', ?_, hb'⟩
      have hcons := hexToBytes_cons_cons (hi := nib2hex (hiNibble b)) (lo := nib2hex (loNibble b)) hset
      simpa [bytesToHex] using hcons

theorem crc16_set_ne {bs : List Byte} {i : Nat} (hi : i < bs.length) {b : Byte} (hb : b ≠ bs[i]) (init : Half) :
    crc16 (bs.set i b) init ≠ crc16 bs init := by
  have hbs : bs = bs.take i ++ [bs[i]] ++ bs.drop (i + 1) := by simp
  have hset : bs.set i b = bs.take i ++ [b] ++ bs.drop (i + 1) := by simp [List.set_eq_take_append_cons_drop, hi]
  rw [hset]
  conv_rhs => rw [hbs]
  exact oneChangedByteChangesTheChecksum _ _ _ _ init hb

/-- With another byte in the place of one of the body and its CRC, what stands last is not the CRC of what stands before. -/
theorem exists_of_framedBytes_set {body : List Byte} {i : Nat} (hi : i < (framedBytes body).length) {b : Byte}
    (hb : b ≠ (framedBytes body)[i]) :
    ∃ body' lo hi, (framedBytes body).set i b = body' ++ [lo, hi] ∧ body'.length = body.length ∧
      crc16 body' 0xFFFF ≠ hi ++ lo := by
  have hlength := framedBytes_length body
  rcases Nat.lt_or_ge i body.length with hbody | hcrc
  · refine ⟨body.set i b, _, _, List.set_append_left i b hbody, by simp, ?_⟩
    have hb' : b ≠ body[i] := by simpa [framedBytes, hbody] using hb
    rw [append_bytes]
    exact crc16_set_ne hbody hb' 0xFFFF
  · obtain rfl | rfl : i = body.length ∨ i = body.length + 1 := by omega
    · refine ⟨body, b, hiByte (crc16 body Config.crcInit), by simp [framedBytes], rfl, fun h => hb ?_⟩
      simpa [framedBytes, Config.crcInit] using (congrArg loByte h).symm
    · refine ⟨body, loByte (crc16 body Config.crcInit), b, by simp [framedBytes], rfl, fun h => hb ?_⟩
      simpa [framedBytes, Config.crcInit] using (congrArg hiByte h).symm

/-- Settles O41: the change reaches one byte of the body or its CRC, and a CRC tells bodies that differ in one byte apart. -/
theorem changedCharacterIsCrcInvalid : Obligations.ChangedCharacterIsCrcInvalid := by
  unfold Obligations.ChangedCharacterIsCrcInvalid
  intro body k c s rest hne _ hroom hhunt hk hk' hc hchanged hin
  obtain ⟨j, rfl⟩ : ∃ j, k = j + 1 := ⟨k - 1, by omega⟩
  have hlength : (frameBytes body).length = (bytesToHex (framedBytes body)).length + 2 := by simp [frameBytes_eq]
  have hj : j < (bytesToHex (framedBytes body)).length := by omega
  have hchanged' : (bytesToHex (framedBytes body))[j]? ≠ some c := by
    rwa [frameBytes_eq, List.getElem?_cons_succ, List.getElem?_append_left hj] at hchanged
  obtain ⟨i, hi, b, hdecode, hb⟩ := hexToBytes_set hj hc hchanged'
  obtain ⟨body', lo, hi, hset, hlen, hcrc⟩ := exists_of_framedBytes_set hi hb
  rw [frameBytes_eq, List.set_cons_succ, List.set_append_left j c hj] at hin
  have hchars : ∀ d ∈ (bytesToHex (framedBytes body)).set j c, d ≠ Config.stx ∧ d ≠ Config.etx := by
    intro d hd
    rcases List.mem_or_eq_of_mem_set hd with hmem | rfl
    · exact ne_delimiter_of_isHexChar (isHexChar_of_mem_bytesToHex hmem)
    · exact ne_delimiter_of_isHexChar hc
  have hne' : body' ≠ [] := List.ne_nil_of_length_pos (hlen ▸ List.length_pos_of_ne_nil hne)
  obtain ⟨t, hrun, hdone, hverdict, -, hinputs, -⟩ :=
    runSteps_frame (hdecode.trans (congrArg some hset)) hchars hne' (hlen ▸ hroom) hhunt hin
  rw [List.length_set, ← hlength] at hrun
  exact ⟨t, hrun, hdone, hverdict.trans (if_neg hcrc), hinputs⟩

end Sys2Proof.Machine
